-- ==== Sys2Proof/Word.lean ====
section
/-!
DEFINITION. The words of the engine: 64-bit state, operand, key, packet and digest words (00_scope.md R9, R13), bytes,
136-bit commands (30_encoding.md R72), and the four state words taken together (10_state.md R20).
-/

namespace Sys2Proof

/-- An unsigned 64-bit word (R13). -/
abbrev Word := BitVec 64

/-- One byte of a packet, an opcode or the STATUS word. -/
abbrev Byte := BitVec 8

/-- One 136-bit command transaction `CMD[135:0]` (R72). -/
abbrev Command := BitVec 136

/-- The four state words (R20): what SipRound maps to what SipRound yields (R92). -/
structure Lanes where
  v0 : Word
  v1 : Word
  v2 : Word
  v3 : Word
deriving DecidableEq, Repr

end Sys2Proof
end

