-- ==== Sys2Proof/Config.lean ====
section
/-!
DEFINITION. What the spec leaves open: the free values of the data registers after a reset, the latencies, the style of the
reset input and the driver's padding choice.
-/

namespace Sys2Proof

/-- DESIGN CHOICE (entry 3, unsafe). The bits that V<lane> holds after reset number `n`: R23 and R38 give none, so nothing
constrains this value. -/
opaque Config.unspecifiedV (n : Nat) (lane : Fin 4) : Word

/-- DESIGN CHOICE (entry 4, unsafe). The bits that DIGEST holds after reset number `n`: R38 gives none. -/
opaque Config.unspecifiedDigest (n : Nat) : Word

/-- The open parameters of R190: clock cycles from acceptance to completion, by kind of command. -/
structure Latency where
  init : Nat
  absorb : Nat
  finalize : Nat
  fault : Nat
deriving DecidableEq, Repr

/-- The open parameter `RESET_STYLE` (R180, D33). -/
inductive ResetStyle where
  | sync
  | async
deriving DecidableEq, Repr

/-- The open parameter `PAD_MODE` of a driver (R63, D25); the engine is the same for all three. -/
inductive PadMode where
  | overread
  | zero
  | zeroLen
deriving DecidableEq, Repr

end Sys2Proof
end

