-- ==== Sys2Proof/Syntax.lean ====
section
/-!
DEFINITION. The commands of the engine, one constructor per row of spec/opcode_table.json (30_encoding.md R73).
-/

namespace Sys2Proof

/-- A decoded command with the operands its format uses (R74 to R76); a field a format ignores is not part of it (R77). -/
inductive Instr where
  /-- INIT: start a new hash computation from a 128-bit key (R110). -/
  | init (key0 key1 : Word)
  /-- ABSORB: mix one 8-byte packet into the state (R114). -/
  | absorb (packet : Word)
  /-- FINALIZE: mix in the domain-separation constant and produce the digest (R130). -/
  | finalize
deriving DecidableEq, Repr

end Sys2Proof
end

