-- ==== Sys2Proof/WellFormed.lean ====
section
/-!
DEFINITION. The checks of the model. A used operand field is taken whole as an unsigned 64-bit word and nothing in it is
reserved (30_encoding.md R77), so every `Instr` is well formed; what can be ill formed is an assembler literal (R81) and a
choice of latencies (70_reset_and_hazards.md R190).
-/

namespace Sys2Proof

/-- Every command value is well formed: its operands are whole words, none reserved (R77). -/
def Instr.wf (i : Instr) : Bool :=
  match i with
  | .init _ _ => true
  | .absorb _ => true
  | .finalize => true

/-- An assembler literal fits a field of `width` bits (R81). -/
def literalFits (width n : Nat) : Bool :=
  decide (n < 2 ^ width)

/-- Every latency is at least 1 (R190). -/
def Latency.wf (lat : Latency) : Bool :=
  decide (1 ≤ lat.init) && decide (1 ≤ lat.absorb) && decide (1 ≤ lat.finalize) && decide (1 ≤ lat.fault)

end Sys2Proof
end

