-- ==== Sys2Proof/Decode.lean ====
section
/-!
DEFINITION. Fields, decoding and encoding of the 136-bit command (30_encoding.md R72 to R81), written from its tables.
-/

namespace Sys2Proof

/-- `OP = CMD[7:0]` (R72). -/
def opField (cmd : Command) : Byte := cmd.extractLsb' 0 8

/-- `A = CMD[71:8]` (R72). -/
def aField (cmd : Command) : Word := cmd.extractLsb' 8 64

/-- `B = CMD[135:72]` (R72). -/
def bField (cmd : Command) : Word := cmd.extractLsb' 72 64

/-- `CMD = {B, A, OP}` (R72). -/
def packCommand (op : Byte) (a b : Word) : Command := (b ++ a) ++ op

/-- What a command word decodes to (R80): a command, or a reserved opcode named by its value. -/
inductive Decoded where
  | command (i : Instr)
  | illegal (op : Byte)
deriving DecidableEq, Repr

/-- The total decoder of R80. -/
def decode (cmd : Command) : Decoded :=
  if opField cmd = 0x01#8 then .command (.init (aField cmd) (bField cmd))
  else if opField cmd = 0x02#8 then .command (.absorb (aField cmd))
  else if opField cmd = 0x03#8 then .command .finalize
  else .illegal (opField cmd)

/-- The opcode of a command (R73). -/
def Instr.opcode (i : Instr) : Byte :=
  match i with
  | .init _ _ => 0x01#8
  | .absorb _ => 0x02#8
  | .finalize => 0x03#8

/-- What the assembler writes into field A: the operand, or 0 where the format ignores it (R81). -/
def Instr.operandA (i : Instr) : Word :=
  match i with
  | .init key0 _ => key0
  | .absorb packet => packet
  | .finalize => 0#64

/-- What the assembler writes into field B: the operand, or 0 where the format ignores it (R81). -/
def Instr.operandB (i : Instr) : Word :=
  match i with
  | .init _ key1 => key1
  | .absorb _ => 0#64
  | .finalize => 0#64

/-- The command word of an instruction (R81). -/
def encode (i : Instr) : Command := packCommand i.opcode i.operandA i.operandB

/-- The command whose bits, numbered as the opcode table numbers them, are the low `nbits` bits of `w`, the rest zero. -/
def tableWord (nbits w : Nat) : Command := BitVec.ofNat 136 (w % 2 ^ nbits)

/-- The instruction the decoder reads from a table word, none where it answers `illegal`. -/
def decodeTableWord (nbits w : Nat) : Option Instr :=
  match decode (tableWord nbits w) with
  | .command i => some i
  | .illegal _ => none

end Sys2Proof
end

