-- ==== Sys2Proof/Machine/Arx.lean ====
section
/-!
DEFINITION. The ARX datapath (40_arx_permutation.md): the constants, SipRound in its eight steps, SipCompress, the digest
fold (42_finalization.md R131), and the inverse round of R97, which is not hardware.
-/

namespace Sys2Proof.Machine

/-- The 64-bit circular left rotation (R14), for `0 < n < 64`. -/
def rotl64 (x : Word) (n : Nat) : Word := (x <<< n) ||| (x >>> (64 - n))

/-- C0 (R90). -/
def c0 : Word := 0x736f6d6570736575#64
/-- C1 (R90). -/
def c1 : Word := 0x646f72616e646f6d#64
/-- C2 (R90). -/
def c2 : Word := 0x6c7967656e657261#64
/-- C3 (R90). -/
def c3 : Word := 0x7465646279746573#64

/-- Absorption rounds (R9, R96). -/
def cRounds : Nat := 2
/-- Finalization rounds (R9, R96). -/
def dRounds : Nat := 4
/-- The domain-separation constant (R9, R130). -/
def domainConstant : Word := 0x00000000000000FF#64

/-- Step 1 of SipRound (R92). -/
def sipStep1 (l : Lanes) : Lanes := { l with v0 := l.v0 + l.v1, v2 := l.v2 + l.v3 }
/-- Step 2 of SipRound (R92). -/
def sipStep2 (l : Lanes) : Lanes := { l with v1 := rotl64 l.v1 13, v3 := rotl64 l.v3 16 }
/-- Step 3 of SipRound (R92). -/
def sipStep3 (l : Lanes) : Lanes := { l with v1 := l.v1 ^^^ l.v0, v3 := l.v3 ^^^ l.v2 }
/-- Step 4 of SipRound (R92). -/
def sipStep4 (l : Lanes) : Lanes := { l with v0 := rotl64 l.v0 32 }
/-- Step 5 of SipRound (R92). -/
def sipStep5 (l : Lanes) : Lanes := { l with v2 := l.v2 + l.v1, v0 := l.v0 + l.v3 }
/-- Step 6 of SipRound (R92). -/
def sipStep6 (l : Lanes) : Lanes := { l with v1 := rotl64 l.v1 17, v3 := rotl64 l.v3 21 }
/-- Step 7 of SipRound (R92). -/
def sipStep7 (l : Lanes) : Lanes := { l with v1 := l.v1 ^^^ l.v2, v3 := l.v3 ^^^ l.v0 }
/-- Step 8 of SipRound (R92). -/
def sipStep8 (l : Lanes) : Lanes := { l with v2 := rotl64 l.v2 32 }

/-- SipRound (R92). -/
def sipRound (l : Lanes) : Lanes :=
  sipStep8 (sipStep7 (sipStep6 (sipStep5 (sipStep4 (sipStep3 (sipStep2 (sipStep1 l)))))))

/-- SipCompress(R) (R95): each round takes the previous round's result. -/
def sipCompress (rounds : Nat) (l : Lanes) : Lanes :=
  match rounds with
  | 0 => l
  | n + 1 => sipCompress n (sipRound l)

/-- The digest fold `(V0 ^ V1) ^ (V2 ^ V3)` (R131). -/
def digestFold (l : Lanes) : Word := (l.v0 ^^^ l.v1) ^^^ (l.v2 ^^^ l.v3)

/-- `rotr64(x, n) = rotl64(x, 64 - n)` (R97). -/
def rotr64 (x : Word) (n : Nat) : Word := rotl64 x (64 - n)

/-- The inverse of step 8 (R97). -/
def sipUnstep8 (l : Lanes) : Lanes := { l with v2 := rotr64 l.v2 32 }
/-- The inverse of step 7 (R97). -/
def sipUnstep7 (l : Lanes) : Lanes := { l with v1 := l.v1 ^^^ l.v2, v3 := l.v3 ^^^ l.v0 }
/-- The inverse of step 6 (R97). -/
def sipUnstep6 (l : Lanes) : Lanes := { l with v1 := rotr64 l.v1 17, v3 := rotr64 l.v3 21 }
/-- The inverse of step 5 (R97). -/
def sipUnstep5 (l : Lanes) : Lanes := { l with v2 := l.v2 - l.v1, v0 := l.v0 - l.v3 }
/-- The inverse of step 4 (R97). -/
def sipUnstep4 (l : Lanes) : Lanes := { l with v0 := rotr64 l.v0 32 }
/-- The inverse of step 3 (R97). -/
def sipUnstep3 (l : Lanes) : Lanes := { l with v1 := l.v1 ^^^ l.v0, v3 := l.v3 ^^^ l.v2 }
/-- The inverse of step 2 (R97). -/
def sipUnstep2 (l : Lanes) : Lanes := { l with v1 := rotr64 l.v1 13, v3 := rotr64 l.v3 16 }
/-- The inverse of step 1 (R97). -/
def sipUnstep1 (l : Lanes) : Lanes := { l with v0 := l.v0 - l.v1, v2 := l.v2 - l.v3 }

/-- SipRoundInverse (R97): not part of the hardware. -/
def sipRoundInverse (l : Lanes) : Lanes :=
  sipUnstep1 (sipUnstep2 (sipUnstep3 (sipUnstep4 (sipUnstep5 (sipUnstep6 (sipUnstep7 (sipUnstep8 l)))))))

end Sys2Proof.Machine
end

