-- ==== Sys2Proof/Machine/State.lean ====
section
/-!
DEFINITION. The state of the engine at transaction level (10_state.md R20 to R31, R38, R40), the host's pending moves and what
the host has read (20_memory.md R60, R61), the model's stops, and the state after reset.
-/

namespace Sys2Proof.Machine

/-- The phase register (R24). -/
inductive Phase where
  | idle
  | initialized
  | absorbing
  | finalized
deriving DecidableEq, Repr

/-- The cause codes ECAUSE can hold (R151); DESIGN CHOICE (entry 9, safe): code 3 is never produced and has no
constructor (93 U4). -/
inductive Cause where
  | none
  | illegalCmd
  | sequence
deriving DecidableEq, Repr

/-- One move of the host (R60, R61). DESIGN CHOICE (entry 1): the moves the host is about to make stand in the state. -/
inductive HostMove where
  /-- Present a 136-bit command and hold it until it is accepted (R71). -/
  | command (cmd : Command)
  /-- Read the `status` port (R55). -/
  | readStatus
  /-- Read the `digest` port (R134). -/
  | readDigest
  /-- Assert and release `rst`, one step of the model (R180, D33). -/
  | reset
deriving DecidableEq, Repr

/-- What one port read gave the host (R61). DESIGN CHOICE (entry 2, safe): the replies stand in the state as a list. -/
inductive Reply where
  | status (w : Byte)
  | digest (w : Word)
deriving DecidableEq, Repr

/-- The transaction-level state. -/
structure State where
  /-- V0..V3 (R20). -/
  v : Lanes
  /-- PHASE (R24). -/
  phase : Phase
  /-- DIGEST (R26); meaningful only while `dv` (R27). -/
  digest : Word
  /-- DV (R27). -/
  dv : Bool
  /-- BUSY (R28); false between the steps of this model (R40, R197). -/
  busy : Bool
  /-- ERR (R29). -/
  err : Bool
  /-- ECAUSE (R30). -/
  ecause : Cause
  /-- What the host will do next, oldest first. The model's own field (entry 1). -/
  hostMoves : List HostMove
  /-- What the host has read, oldest first. The model's own field (entry 2). -/
  replies : List Reply
  /-- How many resets the host has made. The model's own field: it numbers the free values (entry 3). -/
  resets : Nat
deriving DecidableEq, Repr

/-- The stops of a step. An engine fault (ILLEGAL_CMD, SEQUENCE) is none of them: it is recorded in the next state (R155). -/
inductive Fault where
  /-- Raised by a host read of `digest` at DV = 0: the spec gives the read no value (R134, 93 U7). Safe: the model
  stops where hardware shows arbitrary bits. -/
  | digestNotValid
deriving DecidableEq, Repr

/-- The refusals of a step. -/
inductive Refusal where
  /-- Raised by an arm of `exec` whose instruction has no meaning yet. Safe: the model stops. No arm raises it. -/
  | notModelled (mnemonic : String)
deriving DecidableEq, Repr

/-- The state after reset number `n` (R38): PHASE IDLE, DV, BUSY, ERR and ECAUSE 0, V0..V3 and DIGEST unspecified. -/
def State.resetAt (n : Nat) (moves : List HostMove) (replies : List Reply) : State :=
  { v := ⟨Config.unspecifiedV n 0, Config.unspecifiedV n 1, Config.unspecifiedV n 2, Config.unspecifiedV n 3⟩
    phase := .idle
    digest := Config.unspecifiedDigest n
    dv := false
    busy := false
    err := false
    ecause := .none
    hostMoves := moves
    replies := replies
    resets := n }

/-- The machine right after its first reset (R38, R183): the host has made no move yet. -/
def State.reset : State := State.resetAt 0 [] []

end Sys2Proof.Machine
end

