-- ==== Sys2Proof/Machine/Flags.lean ====
section
/-!
DEFINITION. The STATUS word (10_state.md R31) and the codes of its fields (R24, R151). The engine has no other flag (R33).
-/

namespace Sys2Proof.Machine

/-- The encoding of PHASE (R24). -/
def phaseBits (p : Phase) : BitVec 2 :=
  match p with
  | .idle => 0b00#2
  | .initialized => 0b01#2
  | .absorbing => 0b10#2
  | .finalized => 0b11#2

/-- The encoding of ECAUSE (R151). -/
def causeBits (c : Cause) : BitVec 2 :=
  match c with
  | .none => 0#2
  | .illegalCmd => 1#2
  | .sequence => 2#2

/-- STATUS: bit 7 reads 0, ECAUSE in 6:5, ERR 4, DV 3, BUSY 2, PHASE in 1:0 (R31). -/
def statusWord (s : State) : Byte :=
  0#1 ++ causeBits s.ecause ++ BitVec.ofBool s.err ++ BitVec.ofBool s.dv ++ BitVec.ofBool s.busy ++ phaseBits s.phase

end Sys2Proof.Machine
end

