-- ==== Sys2Proof/Machine/Ops.lean ====
section
/-!
DEFINITION. The shared operations of the engine: the phase check, recording a fault, reset, readiness, and the port reads.
There is no return from a fault: it is no trap (60_exceptions.md R150, R160).
-/

namespace Sys2Proof.Machine

/-- The phases in which ABSORB and FINALIZE are in sequence (R116, R132). -/
def inSequence (p : Phase) : Bool :=
  match p with
  | .idle => false
  | .initialized => true
  | .absorbing => true
  | .finalized => false

/-- `raise Fault(cause)` (R155): the first cause is kept, ERR is set, nothing else is written. -/
def raiseFault (cause : Cause) (s : State) : State :=
  { s with ecause := if s.ecause = .none then cause else s.ecause, err := true }

/-- A reset by the host (R180): every register at its reset value, with fresh unspecified bits in V and DIGEST. -/
def applyReset (s : State) : State :=
  State.resetAt (s.resets + 1) s.hostMoves s.replies

/-- `cmd_ready = (BUSY == 0) and (rst == 0)` (R70). -/
def cmdReady (rst : Bool) (s : State) : Bool := !s.busy && !rst

/-- What a read of the `digest` port means: DIGEST while DV = 1, no value while DV = 0 (R26, R134). While BUSY = 1 the registers
are those from before the command, and so is the port (R193, R194). DEDUCED (entry 18, unsafe for claims about a read at
DV = 1, BUSY = 1): R193 and R194 decide there, where R134 names BUSY = 0 as well. -/
def readDigest (s : State) : Option Word :=
  if s.dv then some s.digest else none

/-- Whether a move of the host presents a command; a port read and a reset do not. -/
def HostMove.isCommand (m : HostMove) : Bool :=
  match m with
  | .command _ => true
  | .readStatus => false
  | .readDigest => false
  | .reset => false

/-- Drop the host's oldest move. -/
def popMove (s : State) : State := { s with hostMoves := s.hostMoves.tail }

/-- Hand a read value to the host (R61). -/
def giveReply (r : Reply) (s : State) : State := { s with replies := s.replies ++ [r] }

end Sys2Proof.Machine
end

