-- ==== Sys2Proof/Machine/Finalization.lean ====
section
/-!
DEFINITION. The meaning of FINALIZE (42_finalization.md).
-/

namespace Sys2Proof.Machine

/-- The state words after the finalization rounds (R130). -/
def finalLanes (l : Lanes) : Lanes :=
  sipCompress dRounds { l with v2 := l.v2 ^^^ domainConstant }

/-- FINALIZE (R130, R132). UNVERIFIED (entry 13, unsafe): V0..V3 keep the post-round values, where R133 lets an
implementation clear them. -/
def execFinalize (s : State) : Host.Outcome State Fault Refusal :=
  if inSequence s.phase then
    .next { s with v := finalLanes s.v, digest := digestFold (finalLanes s.v), dv := true, phase := .finalized }
  else
    .next (raiseFault .sequence s)

end Sys2Proof.Machine
end

