-- ==== Sys2Proof/Machine/InitAbsorb.lean ====
section
/-!
DEFINITION. The meanings of INIT and ABSORB (41_init_absorb.md).
-/

namespace Sys2Proof.Machine

/-- The keyed state that INIT loads (R110). -/
def initLanes (key0 key1 : Word) : Lanes :=
  { v0 := c0 ^^^ key0, v1 := c1 ^^^ key1, v2 := c2 ^^^ key0, v3 := c3 ^^^ key1 }

/-- INIT (R110, R111): legal in every phase. -/
def execInit (key0 key1 : Word) (s : State) : Host.Outcome State Fault Refusal :=
  .next { s with v := initLanes key0 key1, phase := .initialized, dv := false }

/-- The state words after one packet: into V3 before the rounds, into V0 after them (R114, R115). -/
def absorbLanes (packet : Word) (l : Lanes) : Lanes :=
  let mixed := sipCompress cRounds { l with v3 := l.v3 ^^^ packet }
  { mixed with v0 := mixed.v0 ^^^ packet }

/-- ABSORB (R114, R116): the phase check comes before any write (R156). -/
def execAbsorb (packet : Word) (s : State) : Host.Outcome State Fault Refusal :=
  if inSequence s.phase then
    .next { s with v := absorbLanes packet s.v, phase := .absorbing }
  else
    .next (raiseFault .sequence s)

end Sys2Proof.Machine
end

