-- ==== Sys2Proof/Machine/Dispatch.lean ====
section
/-!
DEFINITION. One arm per command (30_encoding.md R73).
-/

namespace Sys2Proof.Machine

def exec (i : Instr) (s : State) : Host.Outcome State Fault Refusal :=
  match i with
  | .init key0 key1 => Sys2Proof.Machine.execInit key0 key1 s
  | .absorb packet => Sys2Proof.Machine.execAbsorb packet s
  | .finalize => Sys2Proof.Machine.execFinalize s

end Sys2Proof.Machine
end

