-- ==== Sys2Proof/Machine/Port.lean ====
section
/-!
DEFINITION. The command port and the port reads at transaction level (20_memory.md R57 to R61, 70_reset_and_hazards.md R197).
-/

namespace Sys2Proof.Machine

/-- The effect of one accepted command (R80, R154): decoding first, then the command's own rule. A reserved opcode raises
ILLEGAL_CMD in every phase (R152). -/
def runCommand (cmd : Command) (s : State) : Host.Outcome State Fault Refusal :=
  match decode cmd with
  | .command i => exec i s
  | .illegal _ => .next (raiseFault .illegalCmd s)

/-- A presented command: accepted as one atomic step when `cmd_ready` (R57, R197). DESIGN CHOICE (entry 6, safe): while
BUSY = 1 it stays presented and nothing happens (R192). -/
def presentCommand (cmd : Command) (s : State) : Host.Outcome State Fault Refusal :=
  if cmdReady false s then runCommand cmd (popMove s) else .next s

/-- A read of `status`: one snapshot, no side effect on the engine (R55, R31). -/
def hostReadStatus (s : State) : Host.Outcome State Fault Refusal :=
  .next (giveReply (.status (statusWord s)) (popMove s))

/-- A read of `digest`: the digest, or a stop of the model where the spec gives no value (R134, 93 U7). -/
def hostReadDigest (s : State) : Host.Outcome State Fault Refusal :=
  match readDigest s with
  | some d => .next (giveReply (.digest d) (popMove s))
  | none => .fault .digestNotValid

/-- The host's reset, at any time (R60, R180, R182). -/
def hostReset (s : State) : Host.Outcome State Fault Refusal :=
  .next (applyReset (popMove s))

/-- The oldest move of the host, or nothing: an idle engine holds its state (R79, R166). -/
def hostStep (s : State) : Host.Outcome State Fault Refusal :=
  match s.hostMoves with
  | [] => .next s
  | .command cmd :: _ => presentCommand cmd s
  | .readStatus :: _ => hostReadStatus s
  | .readDigest :: _ => hostReadDigest s
  | .reset :: _ => hostReset s

/-- Put a command in front of the host's moves, with the engine ready to accept it. -/
def placeCommand (cmd : Command) (s : State) : State :=
  { s with hostMoves := .command cmd :: s.hostMoves, busy := false }

end Sys2Proof.Machine
end

