-- ==== Sys2Proof/Machine/Step.lean ====
section
/-!
DEFINITION. One step of the machine: the host's oldest move (20_memory.md R57, 70_reset_and_hazards.md R197).
-/

namespace Sys2Proof.Machine

/-- One transaction-level step. -/
def step (s : State) : Host.Outcome State Fault Refusal := hostStep s

/-- The state in which the next step accepts the given table word as its command. -/
def State.withFetchWord (s : State) (nbits w : Nat) : State := placeCommand (tableWord nbits w) s

end Sys2Proof.Machine
end

