-- ==== Sys2Proof/Machine/Operands.lean ====
section
/-!
DEFINITION. The byte order of a packet operand (00_scope.md R17, 20_memory.md R51). The fields themselves are in Decode.lean;
there is no other operand form (30_encoding.md R77).
-/

namespace Sys2Proof.Machine

/-- `LE64(b0, ..., b7) = {b7, b6, b5, b4, b3, b2, b1, b0}` (R17). -/
def le64 (b0 b1 b2 b3 b4 b5 b6 b7 : Byte) : Word :=
  b7 ++ b6 ++ b5 ++ b4 ++ b3 ++ b2 ++ b1 ++ b0

/-- Byte `i` of a packet word: `A[8*i+7 : 8*i]` (R51). -/
def packetByte (a : Word) (i : Nat) : Byte := a.extractLsb' (8 * i) 8

/-- The packet of at most 8 bytes, missing bytes zero: `LE64` over a zero-initialised buffer (R17, R63). -/
def packetOfBytes (bs : List Byte) : Word :=
  le64 (bs.getD 0 0#8) (bs.getD 1 0#8) (bs.getD 2 0#8) (bs.getD 3 0#8)
    (bs.getD 4 0#8) (bs.getD 5 0#8) (bs.getD 6 0#8) (bs.getD 7 0#8)

end Sys2Proof.Machine
end

