-- ==== Sys2Proof/Machine/Driver.lean ====
section
/-!
DEFINITION. The contracts of the host-side collaborators (20_memory.md R62 to R66): the driver with its padding choice and the
tree reducer, as functions that give the host's moves. They are not engine hardware (00_scope.md R5).
-/

namespace Sys2Proof.Machine

/-- One readable byte of host memory, none where it is not readable (R64). -/
def hostByte (mem : List Host.Cell) (addr : Nat) : Option Byte :=
  match mem.find? (fun c => c.1 == addr) with
  | some c => some c.2
  | none => none

/-- `n` bytes of host memory from `addr` (R16): none if one is not readable. -/
def hostBytes (mem : List Host.Cell) (addr n : Nat) : Option (List Byte) :=
  match n with
  | 0 => some []
  | k + 1 =>
    match hostByte mem addr, hostBytes mem (addr + 1) k with
    | some b, some bs => some (b :: bs)
    | _, _ => none

/-- `LE64(MemRead(addr, 8))` (R62). -/
def hostPacket (mem : List Host.Cell) (addr : Nat) : Option Word :=
  match hostBytes mem addr 8 with
  | some bs => some (packetOfBytes bs)
  | none => none

/-- `n` packets read in 8-byte strides (R62). DESIGN CHOICE (entry 5, unsafe for claims about a base that is no multiple of 8):
the strides may start at any address, where the source does not say whether the reads must be aligned (R54). -/
def hostPackets (mem : List Host.Cell) (addr n : Nat) : Option (List Word) :=
  match n with
  | 0 => some []
  | k + 1 =>
    match hostPacket mem addr, hostPackets mem (addr + 8) k with
    | some w, some ws => some (w :: ws)
    | _, _ => none

/-- The tail packets of a message of `len` bytes at `base` (R63, R66): over-read, zero padding, or zero padding with the length
in byte 7. PRESUMED (entry 11): under ZERO_LEN the last packet is always present and byte 7 is `len mod 256` (93 G3). -/
def tailPackets (mode : PadMode) (mem : List Host.Cell) (base len : Nat) : Option (List Word) :=
  match mode with
  | .overread => if len % 8 = 0 then some [] else hostPackets mem (base + 8 * (len / 8)) 1
  | .zero =>
    if len % 8 = 0 then some []
    else
      match hostBytes mem (base + 8 * (len / 8)) (len % 8) with
      | some bs => some [packetOfBytes bs]
      | none => none
  | .zeroLen =>
    match hostBytes mem (base + 8 * (len / 8)) (len % 8) with
    | some bs =>
      some [le64 (bs.getD 0 0#8) (bs.getD 1 0#8) (bs.getD 2 0#8) (bs.getD 3 0#8) (bs.getD 4 0#8) (bs.getD 5 0#8)
        (bs.getD 6 0#8) (BitVec.ofNat 8 len)]
    | none => none

/-- The packets of a message (R62, R63): none is a fault of the host program (R64). -/
def driverPackets (mode : PadMode) (mem : List Host.Cell) (base len : Nat) : Option (List Word) :=
  match hostPackets mem base (len / 8), tailPackets mode mem base len with
  | some full, some tail => some (full ++ tail)
  | _, _ => none

/-- The commands of one hash computation over a packet sequence (R65, R185): INIT, one ABSORB per packet, FINALIZE. -/
def hashCommands (key0 key1 : Word) (packets : List Word) : List Instr :=
  .init key0 key1 :: packets.map .absorb ++ [.finalize]

/-- The host presents the commands in order. -/
def presentAll (commands : List Instr) : List HostMove :=
  commands.map (fun i => .command (encode i))

/-- The tree reducer (R65): the hashes are absorbed as words. -/
def reducerMoves (key0 key1 : Word) (hashes : List Word) : List HostMove :=
  presentAll (hashCommands key0 key1 hashes)

/-- The driver (R62): none is a fault of the host program (R64). -/
def driverMoves (mode : PadMode) (key0 key1 : Word) (mem : List Host.Cell) (base len : Nat) : Option (List HostMove) :=
  match driverPackets mode mem base len with
  | some packets => some (presentAll (hashCommands key0 key1 packets))
  | none => none

end Sys2Proof.Machine
end

