-- ==== Sys2Proof/Machine/Assembler.lean ====
section
/-!
DEFINITION. The assembler forms and pseudo-commands of 30_encoding.md R81 and R82, over parsed lines (their text is
read in AsmText.lean).
-/

namespace Sys2Proof.Machine

/-- One assembler line with its literals (R81). -/
inductive AsmLine where
  | init (k0 k1 : Nat)
  | absorb (m : Nat)
  | finalize
  /-- `.cmd op, a, b`: any word, reserved opcodes included. -/
  | raw (op a b : Nat)
deriving DecidableEq, Repr

/-- Every literal fits its field (R81). -/
def AsmLine.wf (l : AsmLine) : Bool :=
  match l with
  | .init k0 k1 => literalFits 64 k0 && literalFits 64 k1
  | .absorb m => literalFits 64 m
  | .finalize => true
  | .raw op a b => literalFits 8 op && literalFits 64 a && literalFits 64 b

/-- The word a line stands for, once its literals are known to fit (R81). -/
def asmWord (l : AsmLine) : Command :=
  match l with
  | .init k0 k1 => packCommand 0x01#8 (BitVec.ofNat 64 k0) (BitVec.ofNat 64 k1)
  | .absorb m => packCommand 0x02#8 (BitVec.ofNat 64 m) 0#64
  | .finalize => packCommand 0x03#8 0#64 0#64
  | .raw op a b => packCommand (BitVec.ofNat 8 op) (BitVec.ofNat 64 a) (BitVec.ofNat 64 b)

/-- The assembler refuses a line with a literal that does not fit (R81). -/
def assembleLine (l : AsmLine) : Option Command :=
  if l.wf then some (asmWord l) else none

/-- A command sequence, one command per line (R81). -/
def assemble (ls : List AsmLine) : Option (List Command) :=
  match ls with
  | [] => some []
  | l :: rest =>
    match assembleLine l, assemble rest with
    | some w, some ws => some (w :: ws)
    | _, _ => none

/-- A line that may be a pseudo-command (R82). The bytes of HASH stand in host memory at `base`. -/
inductive PseudoLine where
  | plain (l : AsmLine)
  | absorbBytes (b0 b1 b2 b3 b4 b5 b6 b7 : Nat)
  | reduce (k0 k1 : Nat) (hashes : List Nat)
  | hash (k0 k1 : Nat) (base len : Nat) (mode : PadMode)
deriving DecidableEq, Repr

/-- The expansion of a pseudo-command (R82): the engine sees only the expansion. None where a byte literal does not fit or the
driver's precondition fails (R64). -/
def expandLine (mem : List Host.Cell) (l : PseudoLine) : Option (List AsmLine) :=
  match l with
  | .plain l => some [l]
  | .absorbBytes b0 b1 b2 b3 b4 b5 b6 b7 =>
    if [b0, b1, b2, b3, b4, b5, b6, b7].all (literalFits 8) then
      some [.absorb (le64 (BitVec.ofNat 8 b0) (BitVec.ofNat 8 b1) (BitVec.ofNat 8 b2) (BitVec.ofNat 8 b3)
        (BitVec.ofNat 8 b4) (BitVec.ofNat 8 b5) (BitVec.ofNat 8 b6) (BitVec.ofNat 8 b7)).toNat]
    else none
  | .reduce k0 k1 hashes => some (.init k0 k1 :: hashes.map .absorb ++ [.finalize])
  | .hash k0 k1 base len mode =>
    match driverPackets mode mem base len with
    | some packets => some (.init k0 k1 :: packets.map (fun w => .absorb w.toNat) ++ [.finalize])
    | none => none

end Sys2Proof.Machine
end

