-- ==== Sys2Proof/Machine/AsmText.lean ====
section
/-!
DEFINITION. The text of an assembler program (30_encoding.md R81, R82): one command a line, `#` to the end of the line a comment.
DESIGN CHOICE (entry 12, unsafe): blanks around words do not matter, and a literal is decimal digits or `0x` and hexadecimal
digits, as in the spec's examples.
-/

namespace Sys2Proof.Machine

/-- A blank inside a line. -/
def isBlank (c : Char) : Bool := c == ' ' || c == '\t' || c == '\r'

/-- The line without its comment (R81). -/
def stripComment (line : List Char) : List Char := line.takeWhile (fun c => c != '#')

/-- The text without blanks at either end. -/
def trimBlanks (cs : List Char) : List Char := ((cs.dropWhile isBlank).reverse.dropWhile isBlank).reverse

/-- The pieces of a text between separators. -/
def splitChars (sep : Char) (cs : List Char) : List (List Char) :=
  match cs with
  | [] => [[]]
  | c :: rest =>
    if c = sep then [] :: splitChars sep rest
    else
      match splitChars sep rest with
      | [] => [[c]]
      | w :: ws => (c :: w) :: ws

/-- The value of a digit, if it is one of the given base (at most 16). -/
def digitValue (base : Nat) (c : Char) : Option Nat :=
  let n := c.toNat
  let d :=
    if 48 ≤ n ∧ n ≤ 57 then n - 48
    else if 97 ≤ n ∧ n ≤ 102 then n - 87
    else if 65 ≤ n ∧ n ≤ 70 then n - 55
    else 16
  if d < base then some d else none

/-- The number that digits spell after those already read, most significant first. -/
def digitsValue (base acc : Nat) (cs : List Char) : Option Nat :=
  match cs with
  | [] => some acc
  | c :: rest =>
    match digitValue base c with
    | some d => digitsValue base (acc * base + d) rest
    | none => none

/-- An unsigned integer literal (R81). -/
def literalValue (cs : List Char) : Option Nat :=
  match cs with
  | [] => none
  | [c] => digitsValue 10 0 [c]
  | '0' :: 'x' :: d :: rest => digitsValue 16 0 (d :: rest)
  | c :: rest => digitsValue 10 0 (c :: rest)

/-- The literals of all operands, none if one is no literal. -/
def literalValues (ops : List (List Char)) : Option (List Nat) :=
  match ops with
  | [] => some []
  | o :: rest =>
    match literalValue (trimBlanks o), literalValues rest with
    | some n, some ns => some (n :: ns)
    | _, _ => none

/-- The command or pseudo-command that a mnemonic and its operands name, none for any other. HASH has no text form here. -/
def namedLine (mnemonic : List Char) (ops : List Nat) : Option PseudoLine :=
  if mnemonic = ['I', 'N', 'I', 'T'] then
    match ops with
    | [k0, k1] => some (.plain (.init k0 k1))
    | _ => none
  else if mnemonic = ['A', 'B', 'S', 'O', 'R', 'B'] then
    match ops with
    | [m] => some (.plain (.absorb m))
    | _ => none
  else if mnemonic = ['F', 'I', 'N', 'A', 'L', 'I', 'Z', 'E'] then
    match ops with
    | [] => some (.plain .finalize)
    | _ => none
  else if mnemonic = ['.', 'c', 'm', 'd'] then
    match ops with
    | [op, a, b] => some (.plain (.raw op a b))
    | _ => none
  else if mnemonic = ['A', 'B', 'S', 'O', 'R', 'B', 'B', 'Y', 'T', 'E', 'S'] then
    match ops with
    | [b0, b1, b2, b3, b4, b5, b6, b7] => some (.absorbBytes b0 b1 b2 b3 b4 b5 b6 b7)
    | _ => none
  else if mnemonic = ['R', 'E', 'D', 'U', 'C', 'E'] then
    match ops with
    | k0 :: k1 :: hashes => some (.reduce k0 k1 hashes)
    | _ => none
  else none

/-- One line of text: `some none` for a line with no command, `none` for a line that is no command. -/
def parseLine (line : List Char) : Option (Option PseudoLine) :=
  let body := trimBlanks (stripComment line)
  let mnemonic := body.takeWhile (fun c => !isBlank c)
  let operands := trimBlanks (body.dropWhile (fun c => !isBlank c))
  match body with
  | [] => some none
  | _ =>
    match literalValues (if operands.isEmpty then [] else splitChars ',' operands) with
    | some ops =>
      match namedLine mnemonic ops with
      | some l => some (some l)
      | none => none
    | none => none

/-- The commands of one line. -/
def assembleTextLine (line : List Char) : Option (List Command) :=
  match parseLine line with
  | some none => some []
  | some (some l) => (expandLine [] l).bind assemble
  | none => none

/-- The commands of a whole text, line by line (R81): none if a line is refused. -/
def assembleLines (lines : List (List Char)) : Option (List Command) :=
  match lines with
  | [] => some []
  | l :: rest =>
    match assembleTextLine l, assembleLines rest with
    | some ws, some more => some (ws ++ more)
    | _, _ => none

/-- The commands of a program text (R81). -/
def assembleText (text : List Char) : Option (List Command) := assembleLines (splitChars '\n' text)

end Sys2Proof.Machine
end

