-- ==== Sys2Proof/Machine/Clock.lean ====
section
/-!
DEFINITION. The clocked layer: the handshake, BUSY, latency, reset in flight and what the ports show in each cycle
(30_encoding.md R70, R71; 70_reset_and_hazards.md R180, R182, R190 to R193). It carries the hidden state of 10_state.md R35,
which the transaction-level state leaves out; the command's effect is the one `runCommand` gives.
-/

namespace Sys2Proof.Machine

/-- The input pins in one clock cycle (R70). -/
structure Pins where
  rst : Bool
  cmdValid : Bool
  cmd : Command
deriving DecidableEq, Repr

/-- The latched command and the cycles left until it completes (R35, R190). -/
structure Inflight where
  cmd : Command
  left : Nat
deriving DecidableEq, Repr

/-- The engine between two clock edges: its registers as the ports show them, and the command in flight. -/
structure Clocked where
  arch : State
  inflight : Option Inflight
deriving DecidableEq, Repr

/-- The latency of a command that runs or faults in the given phase (R190): it depends on OP and PHASE alone (R191). -/
def latencyOf (lat : Latency) (cmd : Command) (phase : Phase) : Nat :=
  match decode cmd with
  | .command (.init _ _) => lat.init
  | .command (.absorb _) => if inSequence phase then lat.absorb else lat.fault
  | .command .finalize => if inSequence phase then lat.finalize else lat.fault
  | .illegal _ => lat.fault

/-- The engine in reset: registers at their reset values, the command in flight abandoned (R180, R182). -/
def resetClocked (c : Clocked) : Clocked := { arch := applyReset c.arch, inflight := none }

/-- Acceptance at a clock edge (R71): the command is sampled whole and BUSY becomes 1. -/
def acceptCommand (lat : Latency) (cmd : Command) (c : Clocked) : Clocked :=
  { arch := { c.arch with busy := true }, inflight := some { cmd := cmd, left := latencyOf lat cmd c.arch.phase } }

/-- Completion (R193): all effects of the command appear together, and BUSY falls. -/
def completeCommand (cmd : Command) (c : Clocked) : Host.Outcome Clocked Fault Refusal :=
  match runCommand cmd { c.arch with busy := false } with
  | .next t => .next { arch := t, inflight := none }
  | .fault r => .fault r
  | .refused r => .refused r

/-- One rising edge of `clk` with the given pins: BUSY is 1 for the latency's number of cycles after the accepting edge (R11,
R190). DEDUCED (entry 10, unsafe for claims about that edge): the edge at which BUSY falls accepts nothing (R70, R71, R192). -/
def tick (lat : Latency) (p : Pins) (c : Clocked) : Host.Outcome Clocked Fault Refusal :=
  if p.rst then .next (resetClocked c)
  else
    match c.inflight with
    | some f =>
      if f.left ≤ 1 then completeCommand f.cmd c
      else .next { c with inflight := some { f with left := f.left - 1 } }
    | none =>
      if p.cmdValid && cmdReady p.rst c.arch then .next (acceptCommand lat p.cmd c) else .next c

/-- The edges of successive cycles, stopping at the first stop. -/
def ticks (lat : Latency) (ps : List Pins) (c : Clocked) : Host.Outcome Clocked Fault Refusal :=
  match ps with
  | [] => .next c
  | p :: rest =>
    match tick lat p c with
    | .next c' => ticks lat rest c'
    | .fault r => .fault r
    | .refused r => .refused r

/-- The `cmd_ready` output in a cycle (R70). -/
def readyPort (p : Pins) (c : Clocked) : Bool := cmdReady p.rst c.arch

/-- What a reset input does between two edges (`RESET_STYLE`, R180, entry 15): an asynchronous reset acts at once, a
synchronous one only at the next edge. -/
def settle (style : ResetStyle) (p : Pins) (c : Clocked) : Clocked :=
  match style with
  | .sync => c
  | .async => if p.rst then resetClocked c else c

/-- The `status` output in a cycle (R31, R180). -/
def statusPort (style : ResetStyle) (p : Pins) (c : Clocked) : Byte := statusWord (settle style p c).arch

/-- What a read of the `digest` output means in a cycle (R134): while a command is in flight, the value from before it (R193). -/
def digestPort (style : ResetStyle) (p : Pins) (c : Clocked) : Option Word := readDigest (settle style p c).arch

end Sys2Proof.Machine
end

