-- ==== Sys2Proof/Machine/Instances.lean ====
section
/-!
DEFINITION. Several engine instances side by side (10_state.md R39, 60_exceptions.md R164): a list of states, of which one
steps at a time; nothing is shared. DEDUCED (entry 14, safe).
-/

namespace Sys2Proof.Machine

/-- Instance `k` makes one step; the others do nothing. An index without an instance changes nothing.
DESIGN CHOICE (entry 16, safe): where the step of instance `k` is a stop of the model, the whole list stops with it. -/
def stepInstance (k : Nat) (engines : List State) : Host.Outcome (List State) Fault Refusal :=
  match engines[k]? with
  | none => .next engines
  | some s =>
    match step s with
    | .next t => .next (engines.set k t)
    | .fault r => .fault r
    | .refused r => .refused r

end Sys2Proof.Machine
end

