-- ==== Sys2Proof/Safety.lean ====
section
/-!
DEFINITION. The terms of claims about the machine: the result of a run (70_reset_and_hazards.md R199), when a run is final
(60_exceptions.md R150), the invariants of 10_state.md R40, what two states show alike at the ports, and the keyed hash.
-/

namespace Sys2Proof.Machine

/-- The result of a run (R199): no V register, no cycle count, no held command. -/
structure RunResult where
  digest : Option Word
  phase : Phase
  err : Bool
  ecause : Cause
deriving DecidableEq, Repr

/-- `DIGEST if DV = 1 else no value, PHASE, ERR, ECAUSE` (R199). -/
def State.result (s : State) : RunResult :=
  { digest := if s.dv then some s.digest else none, phase := s.phase, err := s.err, ecause := s.ecause }

/-- The command sequence has ended: its last command has completed (R199). No command is left among the host's moves and none
is in progress; port reads and resets still to come do not matter. DESIGN CHOICE (entry 17, unsafe for claims about a run
without a command): a sequence without a command has ended from the start. -/
abbrev State.ended (s : State) : Prop := (∀ m ∈ s.hostMoves, m.isCommand = false) ∧ s.busy = false

/-- A final run: ended, with no fault recorded (R150: a faulted run is never final). DESIGN CHOICE (entry 7, unsafe where a
reset follows a fault): the record is ERR, so a reset, which clears it (R181), starts a new run that may be final. -/
abbrev State.final (s : State) : Prop := s.ended ∧ s.err = false

/-- What every transaction-level step keeps: BUSY is 0 (R40, R197), DV is 1 exactly in FINALIZED (R25, R27), and ECAUSE is 0
exactly while ERR = 0 (R30). -/
abbrev State.Inv (s : State) : Prop :=
  s.busy = false ∧ (s.dv = true ↔ s.phase = .finalized) ∧ (s.err = true ↔ s.ecause ≠ .none)

/-- The invariant of the clocked layer: BUSY is 1 exactly while a command is in flight (R28), at least one cycle is left
(R190), and the registers keep the rest of `State.Inv`. -/
abbrev Clocked.Inv (c : Clocked) : Prop :=
  (c.arch.busy = c.inflight.isSome) ∧ (∀ f, c.inflight = some f → 1 ≤ f.left) ∧
    (c.arch.dv = true ↔ c.arch.phase = .finalized) ∧ (c.arch.err = true ↔ c.arch.ecause ≠ .none)

/-- Two states that agree on all the ports can show now and later: everything but V where no command may read it (R23, R133)
and DIGEST where it has no value (R27), and the number of resets. -/
abbrev State.SamePorts (s t : State) : Prop :=
  s.phase = t.phase ∧ s.dv = t.dv ∧ s.busy = t.busy ∧ s.err = t.err ∧ s.ecause = t.ecause ∧
    s.hostMoves = t.hostMoves ∧ s.replies = t.replies ∧
    (inSequence s.phase = true → s.v = t.v) ∧ (s.dv = true → s.digest = t.digest)

/-- `n` steps of the machine, stopping at the first stop: the host interface's run of this machine. -/
def runSteps (n : Nat) (s : State) : Host.Outcome State Fault Refusal :=
  match n with
  | 0 => .next s
  | k + 1 =>
    match step s with
    | .next t => runSteps k t
    | .fault r => .fault r
    | .refused r => .refused r

/-- The result of a run, taken in the first state in which its command sequence has ended (R199), so that no later read or
reset alters it: none where `n` steps do not reach that state. -/
def resultOfRun (n : Nat) (s : State) : Option RunResult :=
  if s.ended then some s.result
  else
    match n with
    | 0 => none
    | k + 1 =>
      match step s with
      | .next t => resultOfRun k t
      | .fault _ => none
      | .refused _ => none

/-- The keyed hash of a packet sequence (R1, R2): the function of key and packets that R136 says the digest is. -/
def keyedHash (key0 key1 : Word) (packets : List Word) : Word :=
  digestFold (finalLanes (packets.foldl (fun l m => absorbLanes m l) (initLanes key0 key1)))

end Sys2Proof.Machine
end

