-- ==== Sys2Proof/Certificates/Slice0/Obligations.lean ====
section
/-!
DEFINITION. The statements for the provers. Each docstring names the rules of spec/ it formalises. Nothing here rests on the
value of a free value: V0..V3 and DIGEST after reset are never given one (entries 3 and 4). The events of a step are the host's
moves of R60; that they stand in the state as a list, and what the host reads as another, is the model's own bookkeeping
(entries 1 and 2).
-/

open Sys2Proof Sys2Proof.Machine

/-! ### Reset -/

/-- R38: the reset value of every register that has one; V0..V3 and DIGEST have none, so nothing is said of them, and a read of
`digest` has no value. The first reset and every later one leave the same. -/
def Obligations.ResetValuesOfRegisters : Prop :=
  (State.reset.phase = .idle ∧ State.reset.dv = false ∧ State.reset.busy = false ∧ State.reset.err = false ∧
    State.reset.ecause = .none ∧ statusWord State.reset = 0x00#8 ∧ readDigest State.reset = none) ∧
  ∀ (s : State), s.hostMoves.head? = some .reset →
    ∃ t, step s = .next t ∧ t.phase = .idle ∧ t.dv = false ∧ t.busy = false ∧ t.err = false ∧ t.ecause = .none ∧
      statusWord t = 0x00#8 ∧ readDigest t = none

/-- R180: while `rst = 1` every register is at its reset value, `cmd_ready = 0` and `status` reads 0x00, from the next edge
under either RESET_STYLE and at once under ASYNC; when `rst` returns to 0 the engine is idle and ready with those values. -/
def Obligations.ResetHoldsTheEngine : Prop :=
  ∀ (lat : Latency) (style : ResetStyle) (p : Pins) (c : Clocked), p.rst = true →
    readyPort p c = false ∧ statusPort .async p c = 0x00#8 ∧
    ∃ t, tick lat p c = .next t ∧ t.inflight = none ∧ t.arch.phase = .idle ∧ t.arch.dv = false ∧ t.arch.busy = false ∧
      t.arch.err = false ∧ t.arch.ecause = .none ∧ readyPort p t = false ∧ statusPort style p t = 0x00#8 ∧
      ∀ q : Pins, q.rst = false →
        readyPort q t = true ∧ statusPort style q t = 0x00#8 ∧ (q.cmdValid = false → tick lat q t = .next t)

/-- R182: a reset while a command is in flight leaves what a reset of an idle engine leaves, whatever the registers held: every
register at its reset value, V0..V3 and DIGEST without one, and so the same at every port from then on. -/
def Obligations.ResetAbandonsCommandInFlight : Prop :=
  ∀ (lat : Latency) (p : Pins) (f : Inflight) (a b : State), p.rst = true →
    b.hostMoves = a.hostMoves → b.replies = a.replies →
    ∃ t u, tick lat p { arch := a, inflight := some f } = .next t ∧ tick lat p { arch := b, inflight := none } = .next u ∧
      t.inflight = none ∧ u.inflight = none ∧ t.arch.SamePorts u.arch ∧
      t.arch.phase = .idle ∧ t.arch.dv = false ∧ t.arch.busy = false ∧ t.arch.err = false ∧ t.arch.ecause = .none

/-- R181: only a reset clears ERR or ECAUSE, and only a reset returns PHASE to IDLE; and a reset does both. -/
def Obligations.OnlyResetClearsErrorsAndPhase : Prop :=
  (∀ (s t : State), step s = .next t → s.hostMoves.head? ≠ some .reset →
    (s.err = true → t.err = true) ∧ (s.ecause ≠ .none → t.ecause = s.ecause) ∧ (t.phase = .idle → s.phase = .idle)) ∧
  (∀ (s : State), s.hostMoves.head? = some .reset →
    ∃ t, step s = .next t ∧ t.err = false ∧ t.ecause = .none ∧ t.phase = .idle)

/-! ### Phases and faults -/

/-- R25: the table of phase transitions, with the fault of every faulting cell. -/
def Obligations.PhaseTransitionsFollowTable : Prop :=
  ∀ (cmd : Command) (s : State), ∃ t, runCommand cmd s = .next t ∧
    (opField cmd = 0x01#8 → t.phase = .initialized ∧ t.err = s.err ∧ t.ecause = s.ecause) ∧
    (opField cmd = 0x02#8 → (s.phase = .initialized ∨ s.phase = .absorbing) →
      t.phase = .absorbing ∧ t.err = s.err ∧ t.ecause = s.ecause) ∧
    (opField cmd = 0x03#8 → (s.phase = .initialized ∨ s.phase = .absorbing) →
      t.phase = .finalized ∧ t.err = s.err ∧ t.ecause = s.ecause) ∧
    ((opField cmd = 0x02#8 ∨ opField cmd = 0x03#8) → (s.phase = .idle ∨ s.phase = .finalized) →
      t.phase = s.phase ∧ t.err = true ∧ t.ecause = if s.ecause = .none then .sequence else s.ecause) ∧
    (opField cmd ≠ 0x01#8 → opField cmd ≠ 0x02#8 → opField cmd ≠ 0x03#8 →
      t.phase = s.phase ∧ t.err = true ∧ t.ecause = if s.ecause = .none then .illegalCmd else s.ecause)

/-- R152, R78: a reserved opcode is accepted and raises ILLEGAL_CMD in every phase, whatever A and B hold; the all-zero
word among them. -/
def Obligations.ReservedOpcodeRaisesIllegalCmd : Prop :=
  (∀ (op : Byte) (a b : Word) (s : State), op ≠ 0x01#8 → op ≠ 0x02#8 → op ≠ 0x03#8 →
    runCommand (packCommand op a b) s =
      .next { s with err := true, ecause := if s.ecause = .none then .illegalCmd else s.ecause } ∧
    ∀ rest : List HostMove, s.busy = false → s.hostMoves = .command (packCommand op a b) :: rest →
      step s = .next { s with
        hostMoves := rest, err := true, ecause := if s.ecause = .none then .illegalCmd else s.ecause }) ∧
  ∀ s : State, runCommand 0#136 s =
    .next { s with err := true, ecause := if s.ecause = .none then .illegalCmd else s.ecause }

/-- R153: ABSORB and FINALIZE raise SEQUENCE in IDLE and in FINALIZED; INIT never raises it. -/
def Obligations.OutOfPhaseRaisesSequence : Prop :=
  (∀ (s : State), (s.phase = .idle ∨ s.phase = .finalized) →
    (∀ m : Word, exec (.absorb m) s =
      .next { s with err := true, ecause := if s.ecause = .none then .sequence else s.ecause }) ∧
    exec .finalize s = .next { s with err := true, ecause := if s.ecause = .none then .sequence else s.ecause }) ∧
  ∀ (s : State) (k0 k1 : Word), ∃ t, exec (.init k0 k1) s = .next t ∧ t.err = s.err ∧ t.ecause = s.ecause

/-- R154, R155, R156: a command raises at most one fault, decided by decoding first and the phase after it; a faulting command
writes ERR and, if it was 0, ECAUSE, and nothing else; a command that does not fault writes neither. -/
def Obligations.FaultIsSinglePreciseAndRecorded : Prop :=
  ∀ (cmd : Command) (s t : State), runCommand cmd s = .next t →
    if opField cmd ≠ 0x01#8 ∧ opField cmd ≠ 0x02#8 ∧ opField cmd ≠ 0x03#8 then
      t = { s with err := true, ecause := if s.ecause = .none then .illegalCmd else s.ecause }
    else if opField cmd ≠ 0x01#8 ∧ (s.phase = .idle ∨ s.phase = .finalized) then
      t = { s with err := true, ecause := if s.ecause = .none then .sequence else s.ecause }
    else t.err = s.err ∧ t.ecause = s.ecause

/-- R29, R30, R157: ERR is set by every faulting command and never cleared by a command; ECAUSE is written only when it is 0 and
the command faults, so the first cause stays; ECAUSE is 0 while ERR is 0; a reset clears both and nothing else does. -/
def Obligations.ErrAndCauseAreSticky : Prop :=
  (∀ (cmd : Command) (s t : State), runCommand cmd s = .next t →
    (s.err = true → t.err = true) ∧ (s.ecause ≠ .none → t.ecause = s.ecause) ∧
    (t.ecause ≠ s.ecause → s.ecause = .none ∧ t.err = true) ∧
    ((opField cmd ≠ 0x01#8 ∧ opField cmd ≠ 0x02#8 ∧ opField cmd ≠ 0x03#8) ∨
        (opField cmd ≠ 0x01#8 ∧ (s.phase = .idle ∨ s.phase = .finalized)) → t.err = true ∧ t.ecause ≠ .none) ∧
    ((s.err = false → s.ecause = .none) → t.err = false → t.ecause = .none)) ∧
  (∀ (s t : State), step s = .next t → s.hostMoves.head? ≠ some .reset → s.err = true →
    t.err = true ∧ (s.ecause ≠ .none → t.ecause = s.ecause)) ∧
  (∀ (s : State), s.hostMoves.head? = some .reset → ∃ t, step s = .next t ∧ t.err = false ∧ t.ecause = .none)

/-- R158: after a fault every command executes by its own rule: what ERR and ECAUSE hold changes nothing of V, PHASE, DIGEST,
DV or BUSY that a command leaves. -/
def Obligations.EngineWorksOnAfterFault : Prop :=
  ∀ (cmd : Command) (s : State) (e : Bool) (q : Cause), ∃ t u,
    runCommand cmd s = .next t ∧ runCommand cmd { s with err := e, ecause := q } = .next u ∧
    u.v = t.v ∧ u.phase = t.phase ∧ u.digest = t.digest ∧ u.dv = t.dv ∧ u.busy = t.busy ∧
    (opField cmd = 0x01#8 → u = { t with err := e, ecause := q })

/-! ### The commands -/

/-- R110, R74: INIT in every phase, its encoding, what it writes and what it leaves; the key (0, 0), one flipped key bit, and
the worked example. -/
def Obligations.InitLoadsKeyedState : Prop :=
  (∀ (cmd : Command), opField cmd = 0x01#8 →
    decode cmd = .command (.init (cmd.extractLsb' 8 64) (cmd.extractLsb' 72 64))) ∧
  (∀ (key0 key1 : Word) (s : State), exec (.init key0 key1) s = .next { s with
    v := { v0 := 0x736f6d6570736575#64 ^^^ key0, v1 := 0x646f72616e646f6d#64 ^^^ key1,
           v2 := 0x6c7967656e657261#64 ^^^ key0, v3 := 0x7465646279746573#64 ^^^ key1 }
    phase := .initialized
    dv := false }) ∧
  initLanes 0 0 = ⟨0x736f6d6570736575, 0x646f72616e646f6d, 0x6c7967656e657261, 0x7465646279746573⟩ ∧
  (∀ (key0 key1 : Word) (i : Nat), i < 64 →
    initLanes (key0 ^^^ (1#64 <<< i)) key1 =
        ⟨(initLanes key0 key1).v0 ^^^ (1#64 <<< i), (initLanes key0 key1).v1,
          (initLanes key0 key1).v2 ^^^ (1#64 <<< i), (initLanes key0 key1).v3⟩ ∧
    initLanes key0 (key1 ^^^ (1#64 <<< i)) =
        ⟨(initLanes key0 key1).v0, (initLanes key0 key1).v1 ^^^ (1#64 <<< i),
          (initLanes key0 key1).v2, (initLanes key0 key1).v3 ^^^ (1#64 <<< i)⟩ ∧ 1#64 <<< i ≠ 0#64) ∧
  initLanes 0x0706050403020100 0x0f0e0d0c0b0a0908 =
    ⟨0x7469686173716475, 0x6b617f6d656e6665, 0x6b7f62616d677361, 0x7b6b696e727e6c7b⟩

/-- R111: INIT reads none of V, PHASE and DV, so it starts a new computation from every phase; and a step that is neither INIT
nor a reset never abandons a computation in progress: it continues it, finalizes it, or leaves it as it is. -/
def Obligations.InitReplacesAnyComputation : Prop :=
  (∀ (key0 key1 : Word) (s : State) (l : Lanes) (p : Phase) (d : Bool),
    exec (.init key0 key1) { s with v := l, phase := p, dv := d } = exec (.init key0 key1) s ∧
    ∃ t, exec (.init key0 key1) s = .next t ∧ t.phase = .initialized) ∧
  ∀ (s t : State), step s = .next t → (s.phase = .initialized ∨ s.phase = .absorbing) →
    s.hostMoves.head? = some .reset ∨
    (∃ cmd, s.hostMoves.head? = some (.command cmd) ∧ opField cmd = 0x01#8) ∨
    (∃ cmd, s.hostMoves.head? = some (.command cmd) ∧ opField cmd = 0x02#8 ∧ t.phase = .absorbing ∧
      t.v = absorbLanes (aField cmd) s.v) ∨
    (∃ cmd, s.hostMoves.head? = some (.command cmd) ∧ opField cmd = 0x03#8 ∧ t.phase = .finalized ∧
      t.v = finalLanes s.v) ∨
    (t.phase = s.phase ∧ t.v = s.v)

/-- R114, R115, R116: ABSORB, its encoding (B ignored), its effect in the two phases where it is legal, its fault in the two others,
the packet 0, the order of its two XORs, and the worked example. -/
def Obligations.AbsorbMixesPacket : Prop :=
  (∀ (cmd : Command), opField cmd = 0x02#8 → decode cmd = .command (.absorb (cmd.extractLsb' 8 64))) ∧
  (∀ (m : Word) (s : State), (s.phase = .initialized ∨ s.phase = .absorbing) →
    let mixed := sipRound (sipRound ⟨s.v.v0, s.v.v1, s.v.v2, s.v.v3 ^^^ m⟩)
    exec (.absorb m) s =
      .next { s with v := ⟨mixed.v0 ^^^ m, mixed.v1, mixed.v2, mixed.v3⟩, phase := .absorbing }) ∧
  (∀ (m : Word) (s : State), (s.phase = .idle ∨ s.phase = .finalized) →
    exec (.absorb m) s = .next { s with err := true, ecause := if s.ecause = .none then .sequence else s.ecause }) ∧
  (∀ l : Lanes, absorbLanes 0 l = sipCompress 2 l) ∧
  absorbLanes 0 (initLanes 0x0706050403020100 0x0f0e0d0c0b0a0908) =
    ⟨0x75126fd44af190b6, 0x084235164f06142b, 0x37b04f9f8026831d, 0x1b4678cde8253231⟩ ∧
  ∃ (m : Word) (l : Lanes),
    let reversed := sipCompress 2 { l with v0 := l.v0 ^^^ m }
    digestFold (finalLanes { reversed with v3 := reversed.v3 ^^^ m }) ≠ digestFold (finalLanes (absorbLanes m l))

/-- R117: any number of ABSORB commands, none included, runs one after the other; each leaves ABSORBING, and the state words
are those of the ordered packets alone; the order matters. -/
def Obligations.AbsorbIsReentrant : Prop :=
  (∀ (packets : List Word) (rest : List HostMove) (s : State), s.busy = false →
    (s.phase = .initialized ∨ s.phase = .absorbing) →
    s.hostMoves = presentAll (packets.map .absorb) ++ rest →
    runSteps packets.length s = .next { s with
      v := packets.foldl (fun l m => absorbLanes m l) s.v
      phase := if packets = [] then s.phase else .absorbing
      hostMoves := rest }) ∧
  ∃ (k0 k1 a b : Word), keyedHash k0 k1 [a, b] ≠ keyedHash k0 k1 [b, a]

/-- R130, R131, R132, R76: FINALIZE, its encoding (A and B ignored), its effect in the two phases where it is legal, its fault in the two
others, the fold in any grouping, and the worked example. -/
def Obligations.FinalizeProducesDigest : Prop :=
  (∀ (cmd : Command), opField cmd = 0x03#8 → decode cmd = .command .finalize) ∧
  (∀ (s : State), (s.phase = .initialized ∨ s.phase = .absorbing) →
    let w := sipRound (sipRound (sipRound (sipRound ⟨s.v.v0, s.v.v1, s.v.v2 ^^^ 0x00000000000000FF#64, s.v.v3⟩)))
    exec .finalize s = .next { s with
      v := w, digest := (w.v0 ^^^ w.v1) ^^^ (w.v2 ^^^ w.v3), dv := true, phase := .finalized }) ∧
  (∀ (s : State), (s.phase = .idle ∨ s.phase = .finalized) →
    exec .finalize s = .next { s with err := true, ecause := if s.ecause = .none then .sequence else s.ecause }) ∧
  (∀ l : Lanes, digestFold l = l.v0 ^^^ (l.v1 ^^^ (l.v2 ^^^ l.v3)) ∧
    digestFold l = ((l.v3 ^^^ l.v2) ^^^ l.v1) ^^^ l.v0) ∧
  finalLanes (initLanes 0x0706050403020100 0x0f0e0d0c0b0a0908) =
    ⟨0x9efd07f36977d026, 0x6520f2294003d53b, 0x96e0277927c91e02, 0xbd5ded155d0be446⟩ ∧
  keyedHash 0x0706050403020100 0x0f0e0d0c0b0a0908 [] = 0xd0603fb653b6ff59

/-- What each command leaves unchanged when `exec` answers a next state: BUSY, the host's moves and replies and the reset count
always; DIGEST for INIT and ABSORB, DV for ABSORB, ERR and ECAUSE for INIT; for a faulting ABSORB or FINALIZE everything but
ERR and ECAUSE, and for one that does not fault ERR and ECAUSE. -/
def Obligations.CommandsLeaveTheRestUnchanged : Prop :=
  ∀ (i : Instr) (s t : State), exec i s = .next t →
    (t.busy = s.busy ∧ t.hostMoves = s.hostMoves ∧ t.replies = s.replies ∧ t.resets = s.resets) ∧
    match i with
    | .init _ _ => t.digest = s.digest ∧ t.err = s.err ∧ t.ecause = s.ecause
    | .absorb _ => t.digest = s.digest ∧ t.dv = s.dv ∧
        ((s.phase = .initialized ∨ s.phase = .absorbing) → t.err = s.err ∧ t.ecause = s.ecause) ∧
        ((s.phase = .idle ∨ s.phase = .finalized) → t.v = s.v ∧ t.phase = s.phase)
    | .finalize =>
        ((s.phase = .initialized ∨ s.phase = .absorbing) → t.err = s.err ∧ t.ecause = s.ecause) ∧
        ((s.phase = .idle ∨ s.phase = .finalized) →
          t.v = s.v ∧ t.phase = s.phase ∧ t.digest = s.digest ∧ t.dv = s.dv)

/-- R136, R65: on an engine in any phase, with any registers, INIT, one ABSORB per word and FINALIZE leave the keyed hash of the
key and the ordered words as the digest, so the digest depends on nothing else; each hash is the A field itself; the order of
the words matters. -/
def Obligations.CommandSequenceYieldsKeyedHash : Prop :=
  (∀ (key0 key1 : Word) (hashes : List Word) (rest : List HostMove) (s : State), s.busy = false →
    s.hostMoves = reducerMoves key0 key1 hashes ++ rest →
    ∃ t, runSteps (hashes.length + 2) s = .next t ∧
      readDigest t = some (keyedHash key0 key1 hashes) ∧ t.phase = .finalized ∧
      t.err = s.err ∧ t.ecause = s.ecause ∧ t.hostMoves = rest ∧ t.replies = s.replies) ∧
  (∀ (key0 key1 : Word) (hashes : List Word), reducerMoves key0 key1 hashes =
    .command (packCommand 0x01#8 key0 key1) ::
      (hashes.map (fun h => .command (packCommand 0x02#8 h 0#64)) ++ [.command (packCommand 0x03#8 0#64 0#64)])) ∧
  ∃ (k0 k1 a b : Word), keyedHash k0 k1 [a, b] ≠ keyedHash k0 k1 [b, a]

/-- R21: V0..V3 are written by the three commands alone, all four at once, and by no port read; a command that faults writes
none of them. -/
def Obligations.StateWordsWrittenOnlyByCommands : Prop :=
  ∀ s t : State, step s = .next t → s.hostMoves.head? ≠ some .reset →
    (∀ cmd, s.hostMoves.head? = some (.command cmd) → s.busy = false →
      (opField cmd = 0x01#8 → t.v = initLanes (aField cmd) (bField cmd)) ∧
      (opField cmd = 0x02#8 → (s.phase = .initialized ∨ s.phase = .absorbing) → t.v = absorbLanes (aField cmd) s.v) ∧
      (opField cmd = 0x03#8 → (s.phase = .initialized ∨ s.phase = .absorbing) → t.v = finalLanes s.v) ∧
      ((opField cmd = 0x02#8 ∨ opField cmd = 0x03#8) → (s.phase = .idle ∨ s.phase = .finalized) → t.v = s.v) ∧
      (opField cmd ≠ 0x01#8 → opField cmd ≠ 0x02#8 → opField cmd ≠ 0x03#8 → t.v = s.v)) ∧
    ((∀ cmd, s.hostMoves.head? ≠ some (.command cmd)) → t.v = s.v)

/-! ### The datapath -/

/-- R92: SipRound is its eight steps in order, written out with shifts, and the worked example. -/
def Obligations.SipRoundFollowsEightSteps : Prop :=
  (∀ v0 v1 v2 v3 : Word, sipRound ⟨v0, v1, v2, v3⟩ =
    (let a0 := v0 + v1
     let a2 := v2 + v3
     let b1 := (v1 <<< 13) ||| (v1 >>> 51)
     let b3 := (v3 <<< 16) ||| (v3 >>> 48)
     let d1 := b1 ^^^ a0
     let d3 := b3 ^^^ a2
     let e0 := (a0 <<< 32) ||| (a0 >>> 32)
     let f2 := a2 + d1
     let f0 := e0 + d3
     let g1 := (d1 <<< 17) ||| (d1 >>> 47)
     let g3 := (d3 <<< 21) ||| (d3 >>> 43)
     let h1 := g1 ^^^ f2
     let h3 := g3 ^^^ f0
     let k2 := (f2 <<< 32) ||| (f2 >>> 32)
     ⟨f0, h1, k2, h3⟩)) ∧
  sipRound ⟨1, 2, 3, 4⟩ = ⟨0x0000000300040007, 0x000000008006400a, 0x0000400a00000000, 0x0000008300e40007⟩

/-- R94: the rotation amounts in step order, and the rotation by 32 as the exchange of the two halves. -/
def Obligations.RotationAmountsOfTheSteps : Prop :=
  (∀ l : Lanes,
    (sipStep2 l).v1 = l.v1.rotateLeft 13 ∧ (sipStep2 l).v3 = l.v3.rotateLeft 16 ∧
    (sipStep4 l).v0 = l.v0.rotateLeft 32 ∧
    (sipStep6 l).v1 = l.v1.rotateLeft 17 ∧ (sipStep6 l).v3 = l.v3.rotateLeft 21 ∧
    (sipStep8 l).v2 = l.v2.rotateLeft 32) ∧
  ∀ x : Word, rotl64 x 32 = x.extractLsb' 0 32 ++ x.extractLsb' 32 32

/-- The circular rotation of R14, bit by bit: bit `i` of the rotated word is bit `i - n` of the word, counted around. -/
def Obligations.RotationIsCircular : Prop :=
  ∀ (x : Word) (n i : Nat), 0 < n → n < 64 → i < 64 →
    (rotl64 x n).getLsbD i = x.getLsbD ((i + (64 - n)) % 64)

/-- R95: SipCompress(R) is R SipRounds, each on the previous one's result; R = 0 is the identity; the worked example. -/
def Obligations.SipCompressIteratesSipRound : Prop :=
  (∀ (n : Nat) (l : Lanes), sipCompress 0 l = l ∧ sipCompress (n + 1) l = sipRound (sipCompress n l)) ∧
  sipCompress 1 (initLanes 0x0706050403020100 0x0f0e0d0c0b0a0908) =
    ⟨0x6864848c93698c85, 0x41d43f143c94a7dc, 0xf3f94792d7121732, 0x5e52f75805987c12⟩

/-- R97: SipRoundInverse undoes SipRound on both sides, and SipCompress(R) is a bijection for every R. -/
def Obligations.PermutationIsBijective : Prop :=
  (∀ l : Lanes, sipRoundInverse (sipRound l) = l ∧ sipRound (sipRoundInverse l) = l) ∧
  (∀ n : Nat, Function.Bijective (sipCompress n)) ∧
  ∀ (x : Word) (n : Nat), 0 < n → n < 64 → rotr64 (rotl64 x n) n = x ∧ rotl64 (rotr64 x n) n = x

/-- R98: the all-zero state is a fixed point of SipRound and of SipCompress(R) for every R. -/
def Obligations.ZeroStateIsFixedPoint : Prop :=
  sipRound ⟨0, 0, 0, 0⟩ = ⟨0, 0, 0, 0⟩ ∧ ∀ n : Nat, sipCompress n ⟨0, 0, 0, 0⟩ = ⟨0, 0, 0, 0⟩

/-- R135: the domain-separation XOR keeps a zero state from giving a zero digest, and INIT never gives the zero state. -/
def Obligations.DomainSeparationOfZeroState : Prop :=
  digestFold (finalLanes ⟨0, 0, 0, 0⟩) = 0x3c4ceb5cc070daa0 ∧ digestFold (sipCompress 4 ⟨0, 0, 0, 0⟩) = 0 ∧
  ∀ key0 key1 : Word, initLanes key0 key1 ≠ ⟨0, 0, 0, 0⟩

/-- What R97 and R110 give together: two keys never load the same state, and absorbing a packet loses nothing of the state. -/
def Obligations.KeysAndStatesStayDistinct : Prop :=
  (∀ k0 k1 j0 j1 : Word, initLanes k0 k1 = initLanes j0 j1 → k0 = j0 ∧ k1 = j1) ∧
  (∀ m : Word, Function.Bijective (absorbLanes m)) ∧ Function.Bijective finalLanes

/-! ### STATUS and DIGEST -/

/-- R31: the fields of STATUS, its reserved bit, its reset value, the codes it never shows, and a read without side effect. -/
def Obligations.StatusWordLayout : Prop :=
  (∀ s : State,
    (statusWord s).extractLsb' 0 2 =
      (match s.phase with
       | .idle => 0b00#2
       | .initialized => 0b01#2
       | .absorbing => 0b10#2
       | .finalized => 0b11#2) ∧
    (statusWord s).getLsbD 2 = s.busy ∧ (statusWord s).getLsbD 3 = s.dv ∧ (statusWord s).getLsbD 4 = s.err ∧
    (statusWord s).extractLsb' 5 2 =
      (match s.ecause with
       | .none => 0#2
       | .illegalCmd => 1#2
       | .sequence => 2#2) ∧
    (statusWord s).extractLsb' 5 2 ≠ 3#2 ∧ (statusWord s).getLsbD 7 = false) ∧
  statusWord State.reset = 0x00#8 ∧
  ∀ (s : State) (rest : List HostMove), s.hostMoves = .readStatus :: rest →
    step s = .next { s with hostMoves := rest, replies := s.replies ++ [.status (statusWord s)] }

/-- The repeated reads of R55: two reads of a port one after the other, with no command between them, give the same value. -/
def Obligations.PortReadsAreRepeatable : Prop :=
  (∀ (s : State) (rest : List HostMove), s.hostMoves = .readStatus :: .readStatus :: rest →
    runSteps 2 s = .next { s with
      hostMoves := rest, replies := s.replies ++ [.status (statusWord s), .status (statusWord s)] }) ∧
  ∀ (s : State) (rest : List HostMove), s.dv = true →
    s.hostMoves = .readDigest :: .readDigest :: rest →
    runSteps 2 s = .next { s with
      hostMoves := rest, replies := s.replies ++ [.digest s.digest, .digest s.digest] }

/-- R27: DV is set by a FINALIZE that does not fault, cleared by INIT and by reset, and unchanged by ABSORB and by every
faulting command; while it is 0 DIGEST has no value. -/
def Obligations.DigestValidLifecycle : Prop :=
  (∀ (cmd : Command) (s t : State), runCommand cmd s = .next t →
    if opField cmd = 0x01#8 then t.dv = false
    else if opField cmd = 0x03#8 ∧ (s.phase = .initialized ∨ s.phase = .absorbing) then t.dv = true
    else t.dv = s.dv) ∧
  (∀ (s : State), s.hostMoves.head? = some .reset → ∃ t, step s = .next t ∧ t.dv = false) ∧
  ∀ s : State, s.dv = false → readDigest s = none

/-- R26: among the commands only FINALIZE writes DIGEST, with the fold of the words it leaves; the port gives it a value only
while DV = 1. -/
def Obligations.DigestWrittenOnlyByFinalize : Prop :=
  (∀ (cmd : Command) (s t : State), runCommand cmd s = .next t →
    t.digest = s.digest ∨
    (opField cmd = 0x03#8 ∧ (s.phase = .initialized ∨ s.phase = .absorbing) ∧
      t.digest = (t.v.v0 ^^^ t.v.v1) ^^^ (t.v.v2 ^^^ t.v.v3) ∧ t.dv = true)) ∧
  ∀ (s : State) (d : Word), readDigest s = some d → s.dv = true ∧ d = s.digest

/-- What R134, R193 and R194 give together: the port drives DIGEST, which is the digest of the last FINALIZE while DV = 1 and
stays so until the next INIT or reset; at DV = 0 a read has no value, stops the model and is no engine fault. R134 gives the
value when DV = 1 and BUSY = 0; that BUSY = 1 takes nothing away is the model's reading of R193 and R194 (entry 18). -/
def Obligations.DigestReadHasValueWhenValid : Prop :=
  (∀ (s : State) (d : Word), readDigest s = some d ↔ s.dv = true ∧ d = s.digest) ∧
  (∀ (cmd : Command) (s t : State), (s.phase = .initialized ∨ s.phase = .absorbing) →
    opField cmd = 0x03#8 → runCommand cmd s = .next t → readDigest t = some (digestFold t.v)) ∧
  (∀ (s t : State), s.Inv → step s = .next t → s.hostMoves.head? ≠ some .reset →
    (∀ cmd, s.hostMoves.head? = some (.command cmd) → opField cmd ≠ 0x01#8) →
    s.dv = true → readDigest t = readDigest s) ∧
  (∀ (s : State) (rest : List HostMove), s.hostMoves = .readDigest :: rest →
    (s.dv = true → step s = .next { s with hostMoves := rest, replies := s.replies ++ [.digest s.digest] }) ∧
    (s.dv = false → step s = .fault .digestNotValid))

/-! ### Handshake and timing -/

/-- R71, R192: a command is accepted exactly at an edge with `cmd_valid = 1` and `cmd_ready = 1`, is sampled whole there, and
BUSY becomes 1; while BUSY = 1, or `rst = 1`, what stands at the port has no effect and no fault comes of it. -/
def Obligations.HandshakeAcceptsWhenReady : Prop :=
  (∀ (lat : Latency) (p : Pins) (a : State), p.rst = false → a.busy = false →
    (p.cmdValid = true → ∃ t f, tick lat p { arch := a, inflight := none } = .next t ∧
      t.arch = { a with busy := true } ∧ t.inflight = some f ∧ f.cmd = p.cmd ∧ readyPort p t = false) ∧
    (p.cmdValid = false → tick lat p { arch := a, inflight := none } = .next { arch := a, inflight := none })) ∧
  (∀ (lat : Latency) (p q : Pins) (a : State) (f : Inflight), p.rst = q.rst → 1 < f.left →
    tick lat p { arch := a, inflight := some f } = tick lat q { arch := a, inflight := some f } ∧
    ∃ t, tick lat p { arch := a, inflight := some f } = .next t) ∧
  (∀ (lat : Latency) (p q : Pins) (c : Clocked), p.rst = true → q.rst = true → tick lat p c = tick lat q c) ∧
  ∀ (p : Pins) (c : Clocked), readyPort p c = (!c.arch.busy && !p.rst)

/-- The port has no effect at any edge while a command is in flight, the edge at which BUSY falls among them (entry 10: that
edge is read from R70, R71 and R192), and every such edge answers. -/
def Obligations.PortIsIgnoredWhileInFlight : Prop :=
  ∀ (lat : Latency) (p q : Pins) (a : State) (f : Inflight), p.rst = q.rst →
    tick lat p { arch := a, inflight := some f } = tick lat q { arch := a, inflight := some f } ∧
    ∃ t, tick lat p { arch := a, inflight := some f } = .next t

/-- R190, R193: an accepted command keeps BUSY = 1 for its latency, all that while the registers show the values from before
it, and then completes with the effect of the transaction-level rule, all at once. -/
def Obligations.ClockedCommandRefinesTransaction : Prop :=
  ∀ (lat : Latency) (cmd : Command) (a : State) (p : Pins) (waits : List Pins), lat.wf = true → a.busy = false →
    p.rst = false → p.cmdValid = true → p.cmd = cmd → (∀ q ∈ waits, q.rst = false ∧ q.cmdValid = false) →
    let n :=
      if opField cmd = 0x01#8 then lat.init
      else if opField cmd = 0x02#8 ∧ (a.phase = .initialized ∨ a.phase = .absorbing) then lat.absorb
      else if opField cmd = 0x03#8 ∧ (a.phase = .initialized ∨ a.phase = .absorbing) then lat.finalize
      else lat.fault
    (waits.length < n → ∃ f, ticks lat (p :: waits) { arch := a, inflight := none } =
      .next { arch := { a with busy := true }, inflight := some f }) ∧
    (waits.length = n → ∃ t, runCommand cmd a = .next t ∧ t.busy = false ∧
      ticks lat (p :: waits) { arch := a, inflight := none } = .next { arch := t, inflight := none })

/-- What R134, R193 and R194 give together: from its acceptance to its completion a command, a FINALIZE that runs or faults and an INIT among them, leaves
what the ports show as it was: `status` differs in BUSY alone, and `digest` is the previous DIGEST while DV = 1 and has no
value while DV = 0; at completion `status` and `digest` change at once to what the command's rule gives. That `digest` has a
value at DV = 1 while BUSY = 1 is the model's reading of R193 and R194 (entry 18), where R134 names BUSY = 0 as well. -/
def Obligations.PortsShowValuesFromBeforeTheCommand : Prop :=
  ∀ (lat : Latency) (style : ResetStyle) (a : State) (p q : Pins) (waits : List Pins), lat.wf = true → a.busy = false →
    p.rst = false → p.cmdValid = true → q.rst = false → (∀ w ∈ waits, w.rst = false ∧ w.cmdValid = false) →
    (waits.length < latencyOf lat p.cmd a.phase →
      ∃ c, ticks lat (p :: waits) { arch := a, inflight := none } = .next c ∧
        statusPort style q c = statusWord a ||| 0x04#8 ∧ (statusWord a).getLsbD 2 = false ∧
        (a.dv = true → digestPort style q c = some a.digest) ∧ (a.dv = false → digestPort style q c = none)) ∧
    (waits.length = latencyOf lat p.cmd a.phase →
      ∃ c t, ticks lat (p :: waits) { arch := a, inflight := none } = .next c ∧ runCommand p.cmd a = .next t ∧
        statusPort style q c = statusWord t ∧ digestPort style q c = readDigest t)

/-- R191: how many cycles a command takes depends on its OP and on PHASE (which decides whether it faults) and on nothing
else: not on A, B, V0..V3 or DIGEST. -/
def Obligations.LatencyIndependentOfData : Prop :=
  ∀ (lat : Latency) (op : Byte) (a b a' b' : Word) (s s' : State) (waits : List Pins), lat.wf = true →
    s.phase = s'.phase → s.busy = false → s'.busy = false → (∀ q ∈ waits, q.rst = false ∧ q.cmdValid = false) →
    let n := latencyOf lat (packCommand op a b) s.phase
    let run := ticks lat (⟨false, true, packCommand op a b⟩ :: waits) { arch := s, inflight := none }
    let run' := ticks lat (⟨false, true, packCommand op a' b'⟩ :: waits) { arch := s', inflight := none }
    (waits.length < n → ∃ x x' f f', run = .next { arch := x, inflight := some f } ∧
      run' = .next { arch := x', inflight := some f' } ∧ x.busy = true ∧ x'.busy = true ∧ f.left = f'.left) ∧
    (waits.length = n → ∃ x x', run = .next { arch := x, inflight := none } ∧
      run' = .next { arch := x', inflight := none } ∧ x.busy = false ∧ x'.busy = false)

/-! ### Encoding -/

/-- R80: the decoder, with its fields written out. -/
def Obligations.DecodingIsTotal : Prop :=
  ∀ cmd : Command, decode cmd =
    if cmd.extractLsb' 0 8 = 0x01#8 then .command (.init (cmd.extractLsb' 8 64) (cmd.extractLsb' 72 64))
    else if cmd.extractLsb' 0 8 = 0x02#8 then .command (.absorb (cmd.extractLsb' 8 64))
    else if cmd.extractLsb' 0 8 = 0x03#8 then .command .finalize
    else .illegal (cmd.extractLsb' 0 8)

/-- R72: the three fields make up the whole command, `CMD = {B, A, OP}`: no bit is lost and no bit is shared. -/
def Obligations.FieldsMakeUpTheCommand : Prop :=
  (∀ cmd : Command, cmd = (bField cmd ++ aField cmd) ++ opField cmd) ∧
  (∀ (op : Byte) (a b : Word) (cmd : Command),
    cmd = packCommand op a b ↔ opField cmd = op ∧ aField cmd = a ∧ bField cmd = b) ∧
  ∀ (cmd : Command) (i : Nat),
    (i < 8 → cmd.getLsbD i = (opField cmd).getLsbD i) ∧
    (8 ≤ i → i < 72 → cmd.getLsbD i = (aField cmd).getLsbD (i - 8)) ∧
    (72 ≤ i → i < 136 → cmd.getLsbD i = (bField cmd).getLsbD (i - 72))

/-- Decoding the encoding of any command gives it back, with every operand at every value (R72, R73, R80, R81). -/
def Obligations.DecodeOfEncodeIsIdentity : Prop :=
  ∀ i : Instr, i.wf = true → decode (encode i) = .command i

/-- The other direction (R77, R80, R81): a word that decodes to a command differs from that command's encoding in ignored
fields only, and does what the encoding does. -/
def Obligations.EncodingIsCanonical : Prop :=
  ∀ (cmd : Command) (i : Instr), decode cmd = .command i →
    (∀ s : State, runCommand (encode i) s = runCommand cmd s) ∧
    match i with
    | .init _ _ => encode i = cmd
    | .absorb _ => encode i = packCommand (opField cmd) (aField cmd) 0#64
    | .finalize => encode i = packCommand (opField cmd) 0#64 0#64

/-- R77: a used field is taken whole; a field a format does not use is ignored, so every value in it gives the same result. -/
def Obligations.UnusedFieldsAreIgnored : Prop :=
  ∀ (a b a' b' : Word) (s : State),
    decode (packCommand 0x01#8 a b) = .command (.init a b) ∧
    decode (packCommand 0x02#8 a b) = .command (.absorb a) ∧
    runCommand (packCommand 0x02#8 a b) s = runCommand (packCommand 0x02#8 a b') s ∧
    runCommand (packCommand 0x03#8 a b) s = runCommand (packCommand 0x03#8 a' b') s

/-- R83: the worked encodings, assembled and decoded. -/
def Obligations.WorkedEncodings : Prop :=
  (assembleLine (.init 0x0706050403020100 0x0f0e0d0c0b0a0908) = some 0x0f0e0d0c0b0a0908070605040302010001#136 ∧
    decode 0x0f0e0d0c0b0a0908070605040302010001#136 =
      .command (.init 0x0706050403020100 0x0f0e0d0c0b0a0908)) ∧
  (assembleLine (.absorb 0x0706050403020100) = some 0x0000000000000000070605040302010002#136 ∧
    decode 0x0000000000000000070605040302010002#136 = .command (.absorb 0x0706050403020100)) ∧
  (expandLine [] (.absorbBytes 0x61 0x62 0x63 0 0 0 0 0x03) = some [.absorb 0x0300000000636261] ∧
    assembleLine (.absorb 0x0300000000636261) = some 0x0000000000000000030000000063626102#136 ∧
    decode 0x0000000000000000030000000063626102#136 = .command (.absorb 0x0300000000636261)) ∧
  (assembleLine .finalize = some 0x0000000000000000000000000000000003#136 ∧
    decode 0x0000000000000000000000000000000003#136 = .command .finalize) ∧
  (assembleLine (.raw 0x00 0 0) = some 0#136 ∧ decode 0#136 = .illegal 0x00#8)

/-- R81: what each assembler form encodes, and the refusal of a literal that does not fit. -/
def Obligations.AssemblerEncodesOrRefuses : Prop :=
  (∀ k0 k1 : Nat, assembleLine (.init k0 k1) =
    if k0 < 18446744073709551616 ∧ k1 < 18446744073709551616 then
      some (encode (.init (BitVec.ofNat 64 k0) (BitVec.ofNat 64 k1))) else none) ∧
  (∀ m : Nat, assembleLine (.absorb m) =
    if m < 18446744073709551616 then some (encode (.absorb (BitVec.ofNat 64 m))) else none) ∧
  assembleLine .finalize = some (encode .finalize) ∧
  ∀ op a b : Nat, (op < 256 → a < 18446744073709551616 → b < 18446744073709551616 →
      ∃ cmd, assembleLine (.raw op a b) = some cmd ∧
        (opField cmd).toNat = op ∧ (aField cmd).toNat = a ∧ (bField cmd).toNat = b) ∧
    (256 ≤ op ∨ 18446744073709551616 ≤ a ∨ 18446744073709551616 ≤ b → assembleLine (.raw op a b) = none)

/-- The text form of R81 and R82: the rest of a line after `#` is a comment, a line without a command gives none, and the text of
FINALIZE, and of ABSORB with any word in decimal, gives the encodings (literal spelling is entry 12). -/
def Obligations.AssemblerTextReadsCommands : Prop :=
  (∀ line comment : List Char, '#' ∉ line → assembleTextLine (line ++ '#' :: comment) = assembleTextLine line) ∧
  (∀ comment : List Char, assembleTextLine ('#' :: comment) = some []) ∧
  assembleText ['F', 'I', 'N', 'A', 'L', 'I', 'Z', 'E', '\n'] = some [encode .finalize] ∧
  (∀ (ds : List Char) (m : Word), ds ≠ [] → (∀ c ∈ ds, 48 ≤ c.toNat ∧ c.toNat ≤ 57) →
    ds.foldl (fun n c => n * 10 + (c.toNat - 48)) 0 = m.toNat →
    assembleTextLine (['A', 'B', 'S', 'O', 'R', 'B', ' '] ++ ds) = some [encode (.absorb m)]) ∧
  ∀ l1 l2 : List Char, '\n' ∉ l1 →
    assembleText (l1 ++ '\n' :: l2) =
      (assembleTextLine l1).bind (fun ws => (assembleText l2).map (fun more => ws ++ more))

/-- The expansions of R82 assemble to the encodings of the commands they stand for: REDUCE to those of the tree reducer, HASH to
those of the driver, ABSORBBYTES to one ABSORB of the little-endian word. HASH takes every base address, a multiple of 8 or
not: the model's choice, entry 5. -/
def Obligations.PseudoCommandsExpand : Prop :=
  (∀ (mem : List Host.Cell) (k0 k1 : Word) (hashes : List Word),
    (expandLine mem (.reduce k0.toNat k1.toNat (hashes.map BitVec.toNat))).bind assemble =
      some ((hashCommands k0 k1 hashes).map encode)) ∧
  (∀ (mem : List Host.Cell) (k0 k1 : Word) (base len : Nat) (mode : PadMode),
    (expandLine mem (.hash k0.toNat k1.toNat base len mode)).bind assemble =
      (driverPackets mode mem base len).map (fun packets => (hashCommands k0 k1 packets).map encode)) ∧
  ∀ (mem : List Host.Cell) (b0 b1 b2 b3 b4 b5 b6 b7 : Byte),
    (expandLine mem (.absorbBytes b0.toNat b1.toNat b2.toNat b3.toNat b4.toNat b5.toNat b6.toNat b7.toNat)).bind
        assemble = some [encode (.absorb (le64 b0 b1 b2 b3 b4 b5 b6 b7))]

/-- R17, R51: `LE64` is the sum of the bytes shifted to their places, and byte `i` of the packet is `A[8*i+7 : 8*i]` of the
command that absorbs it. -/
def Obligations.PacketBytesAreLittleEndian : Prop :=
  ∀ b0 b1 b2 b3 b4 b5 b6 b7 : Byte,
    (le64 b0 b1 b2 b3 b4 b5 b6 b7).toNat =
      b0.toNat + b1.toNat * 2 ^ 8 + b2.toNat * 2 ^ 16 + b3.toNat * 2 ^ 24 + b4.toNat * 2 ^ 32 + b5.toNat * 2 ^ 40 +
        b6.toNat * 2 ^ 48 + b7.toNat * 2 ^ 56 ∧
    le64 b0 b1 b2 b3 b4 b5 b6 b7 = b7 ++ b6 ++ b5 ++ b4 ++ b3 ++ b2 ++ b1 ++ b0 ∧
    let a := aField (encode (.absorb (le64 b0 b1 b2 b3 b4 b5 b6 b7)))
    a.extractLsb' 0 8 = b0 ∧ a.extractLsb' 8 8 = b1 ∧ a.extractLsb' 16 8 = b2 ∧ a.extractLsb' 24 8 = b3 ∧
    a.extractLsb' 32 8 = b4 ∧ a.extractLsb' 40 8 = b5 ∧ a.extractLsb' 48 8 = b6 ∧ a.extractLsb' 56 8 = b7

/-! ### The step -/

/-- When the host's oldest move is a command and the engine is ready, the step is `exec` of what the command decodes to, on the
state with that move taken off; a reserved word raises its fault there. -/
def Obligations.StepRunsDecodedCommand : Prop :=
  ∀ (s : State) (cmd : Command) (rest : List HostMove), s.busy = false → s.hostMoves = .command cmd :: rest →
    (∀ i : Instr, decode cmd = .command i → i.wf = true → step s = exec i { s with hostMoves := rest }) ∧
    (∀ op : Byte, decode cmd = .illegal op → step s = .next { s with
      hostMoves := rest, err := true, ecause := if s.ecause = .none then .illegalCmd else s.ecause })

/-- A table word placed for the next step runs there as the command the decoder reads from it. -/
def Obligations.PlacedWordRunsNext : Prop :=
  ∀ (s : State) (nbits w : Nat) (i : Instr), decodeTableWord nbits w = some i →
    step (s.withFetchWord nbits w) = exec i { s with busy := false }

/-- No step refuses, and the one stop is a read of `digest` that has no value (R134, R158, R159); with no move of the host the
state is held (R79, R166). -/
def Obligations.EveryStepAnswers : Prop :=
  (∀ s : State, (∃ t, step s = .next t) ∨
    (step s = .fault .digestNotValid ∧ s.hostMoves.head? = some .readDigest ∧ readDigest s = none)) ∧
  (∀ s : State, s.hostMoves = [] → step s = .next s) ∧
  ∀ (i : Instr) (s : State), ∃ t, exec i s = .next t

/-- Every step keeps the invariant of R25, R27, R28, R30 and R40: BUSY 0, DV exactly in FINALIZED, ECAUSE 0 exactly while ERR
is 0. -/
def Obligations.EveryStepKeepsTheStateInvariant : Prop :=
  ∀ s t : State, s.Inv → step s = .next t → t.Inv

/-- The state after reset meets that invariant (R38). -/
def Obligations.ResetMeetsTheStateInvariant : Prop := State.reset.Inv

/-- Every clock edge, with any pins, keeps BUSY equal to a command being in flight (R28) and the rest of the invariant, for
latencies of at least 1 (R190). -/
def Obligations.EveryTickKeepsTheClockedInvariant : Prop :=
  ∀ (lat : Latency) (p : Pins) (c t : Clocked), lat.wf = true → c.Inv → tick lat p c = .next t → t.Inv

/-- A faulted run is never final (R150, R157; final and ended are the model's terms, entries 7 and 17): once ERR is 1, no number of steps
without a reset among the host's moves reaches a final state. -/
def Obligations.FaultedRunIsNeverFinal : Prop :=
  ∀ (n : Nat) (s t : State), s.err = true → .reset ∉ s.hostMoves → runSteps n s = .next t →
    t.err = true ∧ ¬ t.final

/-- What the ports can show does not depend on V where no command may read it, nor on DIGEST where it has no value (R22, R23,
R27, R133): two states alike at the ports answer alike and stay alike. -/
def Obligations.UnreadableBitsAreUnobservable : Prop :=
  ∀ s t : State, s.SamePorts t →
    statusWord s = statusWord t ∧ readDigest s = readDigest t ∧ s.result = t.result ∧
    ((∃ s' t', step s = .next s' ∧ step t = .next t' ∧ s'.SamePorts t') ∨
      (step s = .fault .digestNotValid ∧ step t = .fault .digestNotValid))

/-- R39: several instances share nothing: a step of one leaves every other as it is, and steps of two different instances
may be done in either order. -/
def Obligations.InstancesAreIndependent : Prop :=
  (∀ (k j : Nat) (engines after : List State), stepInstance k engines = .next after → j ≠ k →
    after[j]? = engines[j]?) ∧
  ∀ (k j : Nat) (engines x y : List State), k ≠ j → stepInstance k engines = .next x → stepInstance j engines = .next y →
    ∃ z, stepInstance j x = .next z ∧ stepInstance k y = .next z

/-! ### The driver -/

/-- The packet counts of R62 and R66: `ceil(len / 8)` under over-read and zero padding, none for an empty message; one more
than `floor(len / 8)` under the length byte (entry 11 names the model's reading of that convention). Every base address is
taken, a multiple of 8 or not: the model's choice, entry 5. -/
def Obligations.DriverPacketCounts : Prop :=
  ∀ (mem : List Host.Cell) (base len : Nat) (packets : List Word),
    (driverPackets .overread mem base len = some packets → packets.length = (len + 7) / 8) ∧
    (driverPackets .zero mem base len = some packets → packets.length = (len + 7) / 8) ∧
    (driverPackets .zeroLen mem base len = some packets → packets.length = len / 8 + 1)

/-- The precondition of R64: the over-reading driver has its packets exactly when all `ceil(len/8)*8` bytes are readable, and
a padding driver exactly when the message's own bytes are. That this holds at every base address, a multiple of 8 or not, is
the model's choice (entry 5: R54 leaves alignment open), and the ZERO_LEN tail is its reading (entry 11). -/
def Obligations.DriverNeedsReadableBytes : Prop :=
  ∀ (mem : List Host.Cell) (base len : Nat),
    ((driverPackets .overread mem base len).isSome = true ↔
      ∀ i < (len + 7) / 8 * 8, (hostByte mem (base + i)).isSome = true) ∧
    ((driverPackets .zero mem base len).isSome = true ↔ ∀ i < len, (hostByte mem (base + i)).isSome = true) ∧
    ((driverPackets .zeroLen mem base len).isSome = true ↔ ∀ i < len, (hostByte mem (base + i)).isSome = true)

/-- A message whose length is a multiple of 8 has the same packets under over-read and zero padding, and the driver's moves
leave the keyed hash of those packets on a ready engine (R62, R63, R136). Every base address is taken, a multiple of 8 or not:
the model's choice, entry 5. -/
def Obligations.DriverRunLeavesKeyedHash : Prop :=
  (∀ (mem : List Host.Cell) (base len : Nat), len % 8 = 0 →
    driverPackets .overread mem base len = driverPackets .zero mem base len) ∧
  ∀ (mode : PadMode) (mem : List Host.Cell) (base len : Nat) (key0 key1 : Word) (packets : List Word)
    (moves rest : List HostMove) (s : State), s.busy = false →
    driverPackets mode mem base len = some packets → driverMoves mode key0 key1 mem base len = some moves →
    s.hostMoves = moves ++ rest →
    ∃ t, runSteps moves.length s = .next t ∧
      readDigest t = some (keyedHash key0 key1 packets) ∧ t.hostMoves = rest ∧ t.err = s.err

/-! ### The end of a run -/

/-- R199: a command sequence has ended when its last command has completed, and not before; what comes after that command, a port
read or a reset, does not alter the run's result, which is the tuple of DIGEST if DV = 1 and else no value, PHASE, ERR and
ECAUSE. With no digest read before it, the last command always completes. -/
def Obligations.RunEndsWhenLastCommandCompletes : Prop :=
  (∀ (before rest : List HostMove) (cmd : Command) (s t : State), s.busy = false →
    (∀ m ∈ rest, m = .readStatus ∨ m = .readDigest ∨ m = .reset) → s.hostMoves = before ++ .command cmd :: rest →
    runSteps (before.length + 1) s = .next t →
    t.ended ∧ t.hostMoves = rest ∧ (∀ n ≤ before.length, ∃ u, runSteps n s = .next u ∧ ¬ u.ended) ∧
      ∀ n, before.length < n → resultOfRun n s = some t.result) ∧
  (∀ (before rest : List HostMove) (cmd : Command) (s : State), s.busy = false → .readDigest ∉ before →
    s.hostMoves = before ++ .command cmd :: rest → ∃ t, runSteps (before.length + 1) s = .next t) ∧
  ∀ s : State, s.result.digest = (if s.dv then some s.digest else none) ∧ s.result.phase = s.phase ∧
    s.result.err = s.err ∧ s.result.ecause = s.ecause
end

