-- ==== Sys2Proof/Laws/Arx.lean ====
section
/-!
SUPPORT. The rotation as core Lean's, and SipCompress round by round.
-/

namespace Sys2Proof.Machine

/-- The rotation of R14 is core Lean's rotation. -/
theorem rotl64_eq_rotateLeft (x : Word) {n : Nat} (h : n < 64) : rotl64 x n = x.rotateLeft n := by
  simp [rotl64, BitVec.rotateLeft, BitVec.rotateLeftAux, Nat.mod_eq_of_lt h]

@[simp] theorem sipCompress_zero (l : Lanes) : sipCompress 0 l = l := rfl

@[simp] theorem sipCompress_succ (n : Nat) (l : Lanes) : sipCompress (n + 1) l = sipCompress n (sipRound l) := rfl

@[simp] theorem rotl64_zero (n : Nat) : rotl64 0#64 n = 0#64 := by
  simp [rotl64]

end Sys2Proof.Machine
end

