-- ==== Sys2Proof/Laws/State.lean ====
section
/-!
SUPPORT. For each update of the state, one lemma per field, so that no proof unfolds a record update.
-/

namespace Sys2Proof.Machine

section
variable (s : State) (c : Cause) (r : Reply) (cmd : Command) (n : Nat) (moves : List HostMove) (replies : List Reply)

@[simp] theorem raiseFault_v : (raiseFault c s).v = s.v := rfl
@[simp] theorem raiseFault_phase : (raiseFault c s).phase = s.phase := rfl
@[simp] theorem raiseFault_digest : (raiseFault c s).digest = s.digest := rfl
@[simp] theorem raiseFault_dv : (raiseFault c s).dv = s.dv := rfl
@[simp] theorem raiseFault_busy : (raiseFault c s).busy = s.busy := rfl
@[simp] theorem raiseFault_err : (raiseFault c s).err = true := rfl
@[simp] theorem raiseFault_ecause : (raiseFault c s).ecause = if s.ecause = .none then c else s.ecause := rfl
@[simp] theorem raiseFault_hostMoves : (raiseFault c s).hostMoves = s.hostMoves := rfl
@[simp] theorem raiseFault_replies : (raiseFault c s).replies = s.replies := rfl
@[simp] theorem raiseFault_resets : (raiseFault c s).resets = s.resets := rfl

@[simp] theorem State.resetAt_v : (State.resetAt n moves replies).v = ⟨Config.unspecifiedV n 0, Config.unspecifiedV n 1, Config.unspecifiedV n 2, Config.unspecifiedV n 3⟩ := rfl
@[simp] theorem State.resetAt_phase : (State.resetAt n moves replies).phase = .idle := rfl
@[simp] theorem State.resetAt_digest : (State.resetAt n moves replies).digest = Config.unspecifiedDigest n := rfl
@[simp] theorem State.resetAt_dv : (State.resetAt n moves replies).dv = false := rfl
@[simp] theorem State.resetAt_busy : (State.resetAt n moves replies).busy = false := rfl
@[simp] theorem State.resetAt_err : (State.resetAt n moves replies).err = false := rfl
@[simp] theorem State.resetAt_ecause : (State.resetAt n moves replies).ecause = .none := rfl
@[simp] theorem State.resetAt_hostMoves : (State.resetAt n moves replies).hostMoves = moves := rfl
@[simp] theorem State.resetAt_replies : (State.resetAt n moves replies).replies = replies := rfl
@[simp] theorem State.resetAt_resets : (State.resetAt n moves replies).resets = n := rfl

@[simp] theorem applyReset_v : (applyReset s).v = ⟨Config.unspecifiedV (s.resets + 1) 0, Config.unspecifiedV (s.resets + 1) 1, Config.unspecifiedV (s.resets + 1) 2, Config.unspecifiedV (s.resets + 1) 3⟩ := rfl
@[simp] theorem applyReset_phase : (applyReset s).phase = .idle := rfl
@[simp] theorem applyReset_digest : (applyReset s).digest = Config.unspecifiedDigest (s.resets + 1) := rfl
@[simp] theorem applyReset_dv : (applyReset s).dv = false := rfl
@[simp] theorem applyReset_busy : (applyReset s).busy = false := rfl
@[simp] theorem applyReset_err : (applyReset s).err = false := rfl
@[simp] theorem applyReset_ecause : (applyReset s).ecause = .none := rfl
@[simp] theorem applyReset_hostMoves : (applyReset s).hostMoves = s.hostMoves := rfl
@[simp] theorem applyReset_replies : (applyReset s).replies = s.replies := rfl
@[simp] theorem applyReset_resets : (applyReset s).resets = s.resets + 1 := rfl

@[simp] theorem popMove_v : (popMove s).v = s.v := rfl
@[simp] theorem popMove_phase : (popMove s).phase = s.phase := rfl
@[simp] theorem popMove_digest : (popMove s).digest = s.digest := rfl
@[simp] theorem popMove_dv : (popMove s).dv = s.dv := rfl
@[simp] theorem popMove_busy : (popMove s).busy = s.busy := rfl
@[simp] theorem popMove_err : (popMove s).err = s.err := rfl
@[simp] theorem popMove_ecause : (popMove s).ecause = s.ecause := rfl
@[simp] theorem popMove_hostMoves : (popMove s).hostMoves = s.hostMoves.tail := rfl
@[simp] theorem popMove_replies : (popMove s).replies = s.replies := rfl
@[simp] theorem popMove_resets : (popMove s).resets = s.resets := rfl

@[simp] theorem giveReply_v : (giveReply r s).v = s.v := rfl
@[simp] theorem giveReply_phase : (giveReply r s).phase = s.phase := rfl
@[simp] theorem giveReply_digest : (giveReply r s).digest = s.digest := rfl
@[simp] theorem giveReply_dv : (giveReply r s).dv = s.dv := rfl
@[simp] theorem giveReply_busy : (giveReply r s).busy = s.busy := rfl
@[simp] theorem giveReply_err : (giveReply r s).err = s.err := rfl
@[simp] theorem giveReply_ecause : (giveReply r s).ecause = s.ecause := rfl
@[simp] theorem giveReply_hostMoves : (giveReply r s).hostMoves = s.hostMoves := rfl
@[simp] theorem giveReply_replies : (giveReply r s).replies = s.replies ++ [r] := rfl
@[simp] theorem giveReply_resets : (giveReply r s).resets = s.resets := rfl

@[simp] theorem placeCommand_v : (placeCommand cmd s).v = s.v := rfl
@[simp] theorem placeCommand_phase : (placeCommand cmd s).phase = s.phase := rfl
@[simp] theorem placeCommand_digest : (placeCommand cmd s).digest = s.digest := rfl
@[simp] theorem placeCommand_dv : (placeCommand cmd s).dv = s.dv := rfl
@[simp] theorem placeCommand_busy : (placeCommand cmd s).busy = false := rfl
@[simp] theorem placeCommand_err : (placeCommand cmd s).err = s.err := rfl
@[simp] theorem placeCommand_ecause : (placeCommand cmd s).ecause = s.ecause := rfl
@[simp] theorem placeCommand_hostMoves : (placeCommand cmd s).hostMoves = .command cmd :: s.hostMoves := rfl
@[simp] theorem placeCommand_replies : (placeCommand cmd s).replies = s.replies := rfl
@[simp] theorem placeCommand_resets : (placeCommand cmd s).resets = s.resets := rfl

end

/-- Two states with equal fields are equal. -/
theorem State.eq_of_fields {s t : State} (hv : s.v = t.v) (hp : s.phase = t.phase) (hd : s.digest = t.digest)
    (hdv : s.dv = t.dv) (hb : s.busy = t.busy) (he : s.err = t.err) (hc : s.ecause = t.ecause)
    (hm : s.hostMoves = t.hostMoves) (hr : s.replies = t.replies) (hn : s.resets = t.resets) : s = t := by
  cases s
  cases t
  simp_all

end Sys2Proof.Machine
end

