-- ==== Sys2Proof/Laws/Ops.lean ====
section
/-!
SUPPORT. One lemma per shared operation of the engine: what it can do.
-/

namespace Sys2Proof.Machine

@[simp] theorem inSequence_iff (p : Phase) : inSequence p = true ↔ p = .initialized ∨ p = .absorbing := by
  cases p <;> decide

@[simp] theorem inSequence_eq_false_iff (p : Phase) : inSequence p = false ↔ p = .idle ∨ p = .finalized := by
  cases p <;> decide

theorem phase_cases (p : Phase) : inSequence p = true ∨ inSequence p = false := by
  cases p <;> decide

@[simp] theorem cmdReady_iff (rst : Bool) (s : State) : cmdReady rst s = true ↔ s.busy = false ∧ rst = false := by
  simp [cmdReady]

theorem readDigest_eq_some_iff (s : State) (d : Word) :
    readDigest s = some d ↔ s.dv = true ∧ s.digest = d := by
  unfold readDigest
  split <;> simp_all

theorem readDigest_eq_none_iff (s : State) : readDigest s = none ↔ s.dv = false := by
  unfold readDigest
  split <;> simp_all

/-- A recorded cause is never NONE when the raised one is not. -/
theorem raiseFault_ecause_ne_none {c : Cause} (hc : c ≠ .none) (s : State) : (raiseFault c s).ecause ≠ .none := by
  by_cases h : s.ecause = .none <;> simp [h, hc]

/-- A fault recorded earlier keeps its cause. -/
theorem raiseFault_keeps_first_cause {s : State} (h : s.ecause ≠ .none) (c : Cause) :
    (raiseFault c s).ecause = s.ecause := by
  simp [h]

@[simp] theorem statusWord_resetAt (n : Nat) (moves : List HostMove) (replies : List Reply) :
    statusWord (State.resetAt n moves replies) = 0x00#8 := by
  simp [statusWord, causeBits, phaseBits]

/-- BUSY shows in bit 2 of STATUS and nowhere else (R31). -/
theorem statusWord_setBusy (s : State) (h : s.busy = false) :
    statusWord { s with busy := true } = statusWord s ||| 0x04#8 := by
  simp only [statusWord, h]
  cases s.phase <;> cases s.dv <;> cases s.err <;> cases s.ecause <;> decide

@[simp] theorem execInit_eq (k0 k1 : Word) (s : State) :
    execInit k0 k1 s = .next { s with v := initLanes k0 k1, phase := .initialized, dv := false } := rfl

theorem execAbsorb_inSequence {s : State} (h : inSequence s.phase = true) (m : Word) :
    execAbsorb m s = .next { s with v := absorbLanes m s.v, phase := .absorbing } := by
  rw [execAbsorb, if_pos h]

theorem execAbsorb_outOfSequence {s : State} (h : inSequence s.phase = false) (m : Word) :
    execAbsorb m s = .next (raiseFault .sequence s) := by
  rw [execAbsorb, h]
  rfl

theorem execFinalize_inSequence {s : State} (h : inSequence s.phase = true) :
    execFinalize s = .next
      { s with v := finalLanes s.v, digest := digestFold (finalLanes s.v), dv := true, phase := .finalized } := by
  rw [execFinalize, if_pos h]

theorem execFinalize_outOfSequence {s : State} (h : inSequence s.phase = false) :
    execFinalize s = .next (raiseFault .sequence s) := by
  rw [execFinalize, h]
  rfl

/-- Everything an accepted command can do: it takes effect by its own rule, or it records one fault. -/
theorem runCommand_cases (cmd : Command) (s : State) :
    (opField cmd = 0x01#8 ∧ runCommand cmd s =
      .next { s with v := initLanes (aField cmd) (bField cmd), phase := .initialized, dv := false }) ∨
    (opField cmd = 0x02#8 ∧ inSequence s.phase = true ∧ runCommand cmd s =
      .next { s with v := absorbLanes (aField cmd) s.v, phase := .absorbing }) ∨
    (opField cmd = 0x03#8 ∧ inSequence s.phase = true ∧ runCommand cmd s =
      .next { s with
        v := finalLanes s.v, digest := digestFold (finalLanes s.v), dv := true, phase := .finalized }) ∨
    ((opField cmd = 0x02#8 ∨ opField cmd = 0x03#8) ∧ inSequence s.phase = false ∧
      runCommand cmd s = .next (raiseFault .sequence s)) ∨
    ((opField cmd ≠ 0x01#8 ∧ opField cmd ≠ 0x02#8 ∧ opField cmd ≠ 0x03#8) ∧
      runCommand cmd s = .next (raiseFault .illegalCmd s)) := by
  by_cases h1 : opField cmd = 0x01#8
  · exact .inl ⟨h1, by simp [runCommand, decode, h1, exec]⟩
  by_cases h2 : opField cmd = 0x02#8
  · rcases phase_cases s.phase with hp | hp
    · exact .inr (.inl ⟨h2, hp, by simp only [runCommand, decode, h2, exec]; exact execAbsorb_inSequence hp _⟩)
    · exact .inr (.inr (.inr (.inl ⟨.inl h2, hp, by
        simp only [runCommand, decode, h2, exec]; exact execAbsorb_outOfSequence hp _⟩)))
  by_cases h3 : opField cmd = 0x03#8
  · rcases phase_cases s.phase with hp | hp
    · exact .inr (.inr (.inl ⟨h3, hp, by simp only [runCommand, decode, h3, exec]; exact execFinalize_inSequence hp⟩))
    · exact .inr (.inr (.inr (.inl ⟨.inr h3, hp, by
        simp only [runCommand, decode, h3, exec]; exact execFinalize_outOfSequence hp⟩)))
  · exact .inr (.inr (.inr (.inr ⟨⟨h1, h2, h3⟩, by simp [runCommand, decode, h1, h2, h3]⟩)))

/-- Every command word answers a next state. -/
theorem runCommand_next (cmd : Command) (s : State) : ∃ t, runCommand cmd s = .next t := by
  rcases runCommand_cases cmd s with ⟨_, hr⟩ | ⟨_, _, hr⟩ | ⟨_, _, hr⟩ | ⟨_, _, hr⟩ | ⟨_, hr⟩ <;> exact ⟨_, hr⟩

/-- A command changes none of BUSY, the host's moves, the replies and the reset count. -/
theorem runCommand_frame {cmd : Command} {s t : State} (h : runCommand cmd s = .next t) :
    t.busy = s.busy ∧ t.hostMoves = s.hostMoves ∧ t.replies = s.replies ∧ t.resets = s.resets := by
  rcases runCommand_cases cmd s with ⟨_, hr⟩ | ⟨_, _, hr⟩ | ⟨_, _, hr⟩ | ⟨_, _, hr⟩ | ⟨_, hr⟩ <;>
  · rw [hr] at h
    cases h
    exact ⟨rfl, rfl, rfl, rfl⟩

/-- Everything a step can do. -/
theorem hostStep_cases (s : State) :
    (s.hostMoves = [] ∧ hostStep s = .next s) ∨
    (∃ cmd rest, s.hostMoves = .command cmd :: rest ∧ s.busy = false ∧
      hostStep s = runCommand cmd { s with hostMoves := rest }) ∨
    (∃ cmd rest, s.hostMoves = .command cmd :: rest ∧ s.busy = true ∧ hostStep s = .next s) ∨
    (∃ rest, s.hostMoves = .readStatus :: rest ∧ hostStep s = .next { s with
      hostMoves := rest, replies := s.replies ++ [.status (statusWord s)] }) ∨
    (∃ rest, s.hostMoves = .readDigest :: rest ∧ s.dv = true ∧ hostStep s = .next { s with
      hostMoves := rest, replies := s.replies ++ [.digest s.digest] }) ∨
    (∃ rest, s.hostMoves = .readDigest :: rest ∧ s.dv = false ∧ hostStep s = .fault .digestNotValid) ∨
    (∃ rest, s.hostMoves = .reset :: rest ∧
      hostStep s = .next (State.resetAt (s.resets + 1) rest s.replies)) := by
  rcases hm : s.hostMoves with _ | ⟨m, rest⟩
  · exact .inl ⟨rfl, by simp [hostStep, hm]⟩
  cases m with
  | command cmd =>
    cases hb : s.busy with
    | false => exact .inr (.inl ⟨cmd, rest, rfl, rfl, by
        simp [hostStep, hm, presentCommand, popMove, cmdReady, hb]⟩)
    | true => exact .inr (.inr (.inl ⟨cmd, rest, rfl, rfl, by simp [hostStep, hm, presentCommand, cmdReady, hb]⟩))
  | readStatus =>
    exact .inr (.inr (.inr (.inl ⟨rest, rfl, by simp [hostStep, hm, hostReadStatus, giveReply, popMove]⟩)))
  | readDigest =>
    cases hd : readDigest s with
    | none =>
      exact .inr (.inr (.inr (.inr (.inr (.inl ⟨rest, rfl, (readDigest_eq_none_iff s).mp hd, by simp [hostStep, hm, hostReadDigest, hd]⟩)))))
    | some d =>
      obtain ⟨h1, rfl⟩ := (readDigest_eq_some_iff s d).mp hd
      exact .inr (.inr (.inr (.inr (.inl ⟨rest, rfl, h1, by
        simp [hostStep, hm, hostReadDigest, hd, giveReply, popMove]⟩))))
  | reset =>
    exact .inr (.inr (.inr (.inr (.inr (.inr ⟨rest, rfl, by simp [hostStep, hm, hostReset, applyReset, popMove]⟩)))))

end Sys2Proof.Machine
end

