-- ==== Sys2Proof/Laws/Clock.lean ====
section
/-!
SUPPORT. What one clock edge can do.
-/

namespace Sys2Proof.Machine

theorem tick_reset (lat : Latency) {p : Pins} (h : p.rst = true) (c : Clocked) :
    tick lat p c = .next (resetClocked c) := by
  simp [tick, h]

theorem tick_wait (lat : Latency) {p : Pins} (h : p.rst = false) (a : State) {f : Inflight} (hf : 1 < f.left) :
    tick lat p { arch := a, inflight := some f } =
      .next { arch := a, inflight := some { cmd := f.cmd, left := f.left - 1 } } := by
  simp [tick, h, Nat.not_le.mpr hf]

theorem tick_complete (lat : Latency) {p : Pins} (h : p.rst = false) (a : State) {f : Inflight} (hf : f.left ≤ 1) :
    tick lat p { arch := a, inflight := some f } = completeCommand f.cmd { arch := a, inflight := some f } := by
  simp [tick, h, hf]

theorem tick_accept (lat : Latency) {p : Pins} (h : p.rst = false) (hv : p.cmdValid = true) {a : State}
    (hb : a.busy = false) :
    tick lat p { arch := a, inflight := none } = .next (acceptCommand lat p.cmd { arch := a, inflight := none }) := by
  simp [tick, h, hv, hb, cmdReady]

theorem tick_idle (lat : Latency) {p : Pins} (h : p.rst = false) (hv : p.cmdValid = false) (a : State) :
    tick lat p { arch := a, inflight := none } = .next { arch := a, inflight := none } := by
  simp [tick, h, hv]

/-- A command in flight completes with what `runCommand` gives. -/
theorem completeCommand_eq {cmd : Command} {c : Clocked} {t : State}
    (h : runCommand cmd { c.arch with busy := false } = .next t) :
    completeCommand cmd c = .next { arch := t, inflight := none } := by
  simp [completeCommand, h]

end Sys2Proof.Machine
end

