-- ==== Sys2Proof/Laws/Decode.lean ====
section
/-!
SUPPORT. The fields of a packed command, and the decoder by its opcode.
-/

namespace Sys2Proof

/-- Bit `i` of `{B, A, OP}` (R72). -/
theorem getLsbD_packCommand (op : Byte) (a b : Word) (i : Nat) :
    (packCommand op a b).getLsbD i =
      if i < 8 then op.getLsbD i else if i < 72 then a.getLsbD (i - 8) else b.getLsbD (i - 72) := by
  show BitVec.getLsbD (w := 64 + 64 + 8) ((b ++ a) ++ op) i = _
  rw [BitVec.getLsbD_append, BitVec.getLsbD_append]
  by_cases h : i < 8
  · simp [h]
  · by_cases h' : i < 72
    · simp [h, h', show i - 8 < 64 by omega]
    · simp [h, h', show ¬ i - 8 < 64 by omega, show i - 8 - 64 = i - 72 by omega]

@[simp] theorem opField_packCommand (op : Byte) (a b : Word) : opField (packCommand op a b) = op := by
  apply BitVec.eq_of_getLsbD_eq
  intro i hi
  simp [opField, getLsbD_packCommand, hi]

@[simp] theorem aField_packCommand (op : Byte) (a b : Word) : aField (packCommand op a b) = a := by
  apply BitVec.eq_of_getLsbD_eq
  intro i hi
  simp [aField, getLsbD_packCommand, hi, show 8 + i < 72 by omega]

@[simp] theorem bField_packCommand (op : Byte) (a b : Word) : bField (packCommand op a b) = b := by
  apply BitVec.eq_of_getLsbD_eq
  intro i hi
  simp [bField, getLsbD_packCommand, hi]
  omega

theorem decode_init {cmd : Command} (h : opField cmd = 0x01#8) :
    decode cmd = .command (.init (aField cmd) (bField cmd)) := by
  simp [decode, h]

theorem decode_absorb {cmd : Command} (h : opField cmd = 0x02#8) : decode cmd = .command (.absorb (aField cmd)) := by
  simp [decode, h]

theorem decode_finalize {cmd : Command} (h : opField cmd = 0x03#8) : decode cmd = .command .finalize := by
  simp [decode, h]

theorem decode_illegal {cmd : Command} (h1 : opField cmd ≠ 0x01#8) (h2 : opField cmd ≠ 0x02#8)
    (h3 : opField cmd ≠ 0x03#8) : decode cmd = .illegal (opField cmd) := by
  simp [decode, h1, h2, h3]

/-- Every command word falls under one of the four rows of R73. -/
theorem opcode_cases (cmd : Command) :
    opField cmd = 0x01#8 ∨ opField cmd = 0x02#8 ∨ opField cmd = 0x03#8 ∨
      (opField cmd ≠ 0x01#8 ∧ opField cmd ≠ 0x02#8 ∧ opField cmd ≠ 0x03#8) := by
  by_cases h1 : opField cmd = 0x01#8
  · exact .inl h1
  by_cases h2 : opField cmd = 0x02#8
  · exact .inr (.inl h2)
  by_cases h3 : opField cmd = 0x03#8
  · exact .inr (.inr (.inl h3))
  · exact .inr (.inr (.inr ⟨h1, h2, h3⟩))

end Sys2Proof
end

