-- ==== Sys2Proof/Laws/Driver.lean ====
section
/-!
SUPPORT. The driver's reads of host memory.
-/

namespace Sys2Proof.Machine

theorem hostBytes_length {mem : List Host.Cell} {addr n : Nat} {bs : List Byte} (h : hostBytes mem addr n = some bs) :
    bs.length = n := by
  induction n generalizing addr bs with
  | zero => simp_all [hostBytes]
  | succ k ih =>
    simp only [hostBytes] at h
    split at h
    · next b bs' hb hbs =>
      cases h
      simp [ih hbs]
    · cases h

theorem hostPackets_length {mem : List Host.Cell} {addr n : Nat} {ws : List Word}
    (h : hostPackets mem addr n = some ws) : ws.length = n := by
  induction n generalizing addr ws with
  | zero => simp_all [hostPackets]
  | succ k ih =>
    simp only [hostPackets] at h
    split at h
    · next w ws' hw hws =>
      cases h
      simp [ih hws]
    · cases h

/-- A read of several bytes succeeds exactly when each byte is readable. -/
theorem hostBytes_isSome (mem : List Host.Cell) (addr n : Nat) :
    (hostBytes mem addr n).isSome = true ↔ ∀ i < n, (hostByte mem (addr + i)).isSome = true := by
  induction n generalizing addr with
  | zero => simp [hostBytes]
  | succ k ih =>
    rw [Nat.forall_lt_succ_left']
    simp only [hostBytes]
    have := ih (addr + 1)
    rcases h1 : hostByte mem addr with _ | b <;> rcases h2 : hostBytes mem (addr + 1) k with _ | bs <;>
      simp_all [Nat.add_comm, Nat.add_left_comm]

end Sys2Proof.Machine
end

