-- ==== Sys2Proof/Laws/PerInstr.lean ====
section
/-!
SUPPORT. The family EncodedFields: what the encoding of each command holds in its three fields (30_encoding.md R81).
-/

namespace Sys2Proof.Laws.EncodedFields

/-- The encoding of a command holds its opcode in OP and its operands, or 0 where it has none, in A and B. -/
def Statement (i : Instr) : Prop :=
  i.wf = true ∧ opField (encode i) = i.opcode ∧ aField (encode i) = i.operandA ∧ bField (encode i) = i.operandB

theorem init (key0 key1 : Word) : Statement (.init key0 key1) := by simp [Statement, encode, Instr.wf]

theorem absorb (packet : Word) : Statement (.absorb packet) := by simp [Statement, encode, Instr.wf]

theorem finalize : Statement .finalize := by simp [Statement, encode, Instr.wf]

end Sys2Proof.Laws.EncodedFields
end

