-- ==== Sys2Proof/Laws/Run.lean ====
section
/-!
SUPPORT. Steps and runs of steps.
-/

namespace Sys2Proof.Machine

theorem runSteps_zero (s : State) : runSteps 0 s = .next s := rfl

theorem runSteps_succ {s t : State} (n : Nat) (h : step s = .next t) : runSteps (n + 1) s = runSteps n t := by
  rw [runSteps, h]

/-- A run of the machine is the host interface's run of it. -/
theorem runSteps_eq_core_run (n : Nat) (s : State) : runSteps n s = Host.Core.run core n s := by
  induction n generalizing s with
  | zero => rfl
  | succ k ih =>
    cases h : step s with
    | next t =>
      rw [runSteps_succ k h, ih t]
      simp only [Host.Core.run, core, h]
    | fault r => simp only [runSteps, Host.Core.run, core, h]
    | refused r => simp only [runSteps, Host.Core.run, core, h]

/-- A run of `n + m` steps is a run of `n` and then one of `m`. -/
theorem runSteps_add {n : Nat} {s t : State} (m : Nat) (h : runSteps n s = .next t) :
    runSteps (n + m) s = runSteps m t := by
  induction n generalizing s with
  | zero =>
    cases h
    rw [Nat.zero_add]
  | succ k ih =>
    rw [Nat.succ_add]
    cases hs : step s with
    | next u =>
      rw [runSteps_succ k hs] at h
      rw [runSteps_succ (k + m) hs]
      exact ih h
    | fault r => simp [runSteps, hs] at h
    | refused r => simp [runSteps, hs] at h

theorem resultOfRun_ended {s : State} (n : Nat) (h : s.ended) : resultOfRun n s = some s.result := by
  rw [resultOfRun.eq_def, if_pos h]

theorem resultOfRun_succ {s t : State} (n : Nat) (hn : ¬ s.ended) (h : step s = .next t) :
    resultOfRun (n + 1) s = resultOfRun n t := by
  rw [resultOfRun.eq_def, if_neg hn]
  simp only [h]

/-- With the engine ready, a step that answers does the host's oldest move and leaves the engine ready. -/
theorem step_move {s t : State} {m : HostMove} {rest : List HostMove} (hb : s.busy = false) (hm : s.hostMoves = m :: rest)
    (h : step s = .next t) : t.busy = false ∧ t.hostMoves = rest := by
  cases m with
  | command cmd =>
    have hf := runCommand_frame (cmd := cmd) (s := { s with hostMoves := rest }) (t := t)
      (by simpa [step, hostStep, hm, presentCommand, cmdReady, hb, popMove] using h)
    exact ⟨hf.1.trans hb, hf.2.1⟩
  | readStatus =>
    simp only [step, hostStep, hm, hostReadStatus] at h
    cases h
    exact ⟨hb, by simp [giveReply, popMove, hm]⟩
  | readDigest =>
    simp only [step, hostStep, hm, hostReadDigest] at h
    split at h
    · cases h
      exact ⟨hb, by simp [giveReply, popMove, hm]⟩
    · cases h
  | reset =>
    simp only [step, hostStep, hm, hostReset] at h
    cases h
    exact ⟨rfl, by simp [applyReset, State.resetAt, popMove, hm]⟩

/-- A reset is the whole effect of a host's reset move. -/
theorem step_reset {s : State} (h : s.hostMoves.head? = some .reset) :
    ∃ rest, s.hostMoves = .reset :: rest ∧ step s = .next (State.resetAt (s.resets + 1) rest s.replies) := by
  rcases hm : s.hostMoves with _ | ⟨m, rest⟩
  · simp [hm] at h
  · simp only [hm, List.head?_cons, Option.some.injEq] at h
    subst h
    exact ⟨rest, rfl, by simp [step, hostStep, hm, hostReset, applyReset, popMove]⟩

end Sys2Proof.Machine
end

