-- ==== Sys2Proof/Tests/Slice0.lean ====
section
/-!
SUPPORT. Tests against the spec's own vectors (95_test_vectors.md), the ill-formed terms each check refuses, decoding of words
written out from 30_encoding.md R72, and for each obligation with hypotheses a witness that they can hold together.
-/

namespace Sys2Proof.Tests

open Sys2Proof.Machine

/-- A small state in the given phase, with the given host moves. -/
def small (p : Phase) (moves : List HostMove) : State :=
  { v := ⟨1, 2, 3, 4⟩, phase := p, digest := 7, dv := decide (p = .finalized), busy := false, err := false,
    ecause := .none, hostMoves := moves, replies := [], resets := 0 }

/-- The next state of an outcome. -/
def nextOf (o : Host.Outcome State Fault Refusal) : Option State :=
  match o with
  | .next t => some t
  | .fault _ => none
  | .refused _ => none

/-- A word of the spec's form `{B, A, OP}`, OP in the low byte (R72). -/
def word (b a op : Nat) : Command := BitVec.ofNat 136 (b * 2 ^ 72 + a * 2 ^ 8 + op)

def keyK0 : Word := 0x0706050403020100
def keyK1 : Word := 0x0f0e0d0c0b0a0908

/-! ### Well-formedness: an ill-formed term for each check -/

/-- R81: a literal of 65 bits does not fit field A, one of 9 bits does not fit OP. -/
theorem test_literal_too_wide : literalFits 64 18446744073709551616 = false ∧ literalFits 8 256 = false := by decide
theorem test_literal_fits : literalFits 64 18446744073709551615 = true ∧ literalFits 8 255 = true := by decide
/-- R190: no latency may be 0. -/
theorem test_latency_zero_refused : ({ init := 0, absorb := 1, finalize := 1, fault := 1 } : Latency).wf = false ∧
    ({ init := 1, absorb := 0, finalize := 1, fault := 1 } : Latency).wf = false ∧
    ({ init := 1, absorb := 1, finalize := 0, fault := 1 } : Latency).wf = false ∧
    ({ init := 1, absorb := 1, finalize := 1, fault := 0 } : Latency).wf = false := by decide
/-- R81: each assembler form with a literal that does not fit. -/
theorem test_ill_formed_lines : (AsmLine.init 18446744073709551616 0).wf = false ∧
    (AsmLine.init 0 18446744073709551616).wf = false ∧ (AsmLine.absorb 18446744073709551616).wf = false ∧
    (AsmLine.raw 256 0 0).wf = false ∧ (AsmLine.raw 0 18446744073709551616 0).wf = false ∧
    (AsmLine.raw 0 0 18446744073709551616).wf = false := by decide
theorem test_every_instr_well_formed : (Instr.init 0 0).wf = true ∧ (Instr.absorb 0).wf = true ∧
    Instr.finalize.wf = true := by decide

/-! ### Decoding of words written out from R72 and R73 -/

theorem test_decode_init : decode (word 0x0f0e0d0c0b0a0908 0x0706050403020100 0x01) =
    .command (.init 0x0706050403020100 0x0f0e0d0c0b0a0908) := by decide
theorem test_decode_absorb : decode (word 0xdeadbeef 0x0300000000636261 0x02) =
    .command (.absorb 0x0300000000636261) := by decide
theorem test_decode_finalize : decode (word 1 2 0x03) = .command .finalize := by decide
theorem test_decode_reserved : decode (word 5 6 0x00) = .illegal 0x00 ∧ decode (word 5 6 0x04) = .illegal 0x04 ∧
    decode (word 0 0 0xff) = .illegal 0xff := by decide
/-- The table's numbering: bit 0 is the least significant bit of OP; bits above the given width are 0. -/
theorem test_table_words : decodeTableWord 136 0x0f0e0d0c0b0a0908070605040302010001 =
      some (.init 0x0706050403020100 0x0f0e0d0c0b0a0908) ∧
    decodeTableWord 8 0x302 = some (.absorb 0) ∧ decodeTableWord 8 0x03 = some .finalize ∧
    decodeTableWord 8 0x04 = none := by decide

/-! ### The datapath against 95_test_vectors.md section 2 -/

/-- Section 2.2, steps 1 to 4. -/
theorem test_trace_first_half :
    let s1 := sipStep1 (initLanes keyK0 keyK1)
    s1 = ⟨0xdfcae7ced8dfcada, 0x6b617f6d656e6665, 0xe6eacbcfdfe5dfdc, 0x7b6b696e727e6c7b⟩ ∧
    sipStep2 s1 = ⟨0xdfcae7ced8dfcada, 0x2fedacadccccad6c, 0xe6eacbcfdfe5dfdc, 0x696e727e6c7b7b6b⟩ ∧
    sipStep3 (sipStep2 s1) = ⟨0xdfcae7ced8dfcada, 0xf0274b63141367b6, 0xe6eacbcfdfe5dfdc, 0x8f84b9b1b39ea4b7⟩ ∧
    sipStep4 (sipStep3 (sipStep2 s1)) =
      ⟨0xd8dfcadadfcae7ce, 0xf0274b63141367b6, 0xe6eacbcfdfe5dfdc, 0x8f84b9b1b39ea4b7⟩ := by decide
/-- Section 2.2, steps 5 to 8. -/
theorem test_trace_second_half :
    let s5 := sipStep5 ⟨0xd8dfcadadfcae7ce, 0xf0274b63141367b6, 0xe6eacbcfdfe5dfdc, 0x8f84b9b1b39ea4b7⟩
    s5 = ⟨0x6864848c93698c85, 0xf0274b63141367b6, 0xd7121732f3f94792, 0x8f84b9b1b39ea4b7⟩ ∧
    sipStep6 s5 = ⟨0x6864848c93698c85, 0x96c62826cf6de04e, 0xd7121732f3f94792, 0x363673d496f1f097⟩ ∧
    sipStep7 (sipStep6 s5) = ⟨0x6864848c93698c85, 0x41d43f143c94a7dc, 0xd7121732f3f94792, 0x5e52f75805987c12⟩ ∧
    sipStep8 (sipStep7 (sipStep6 s5)) =
      ⟨0x6864848c93698c85, 0x41d43f143c94a7dc, 0xf3f94792d7121732, 0x5e52f75805987c12⟩ := by decide
/-- SC4, SC7, SC16. -/
theorem test_compress_four_rounds :
    sipCompress 4 ⟨0xffffffffffffffff, 0xffffffffffffffff, 0xffffffffffffffff, 0xffffffffffffffff⟩ =
      ⟨0x3f8297f5d4711c16, 0x2f183c86c58b175c, 0xec16fd10f1e3933d, 0xb94e937747cef79d⟩ ∧
    sipCompress 4 ⟨1, 2, 3, 4⟩ =
      ⟨0xfe8db11a08164444, 0xf608a594f991572d, 0x2aac0c75a9772542, 0x2d2f288c107b30d9⟩ ∧
    sipCompress 4 ⟨0x8000000000000000, 0x8000000000000000, 0x8000000000000000, 0x8000000000000000⟩ =
      ⟨0x32681690575142d6, 0x1a99876b91b50d8a, 0x6ed4a4275adb478a, 0xd6ad584819f18897⟩ := by decide
/-- SC17 and SC18: additions that wrap to 0; R97's inverse gives the inputs back. -/
theorem test_round_wraps_and_inverts :
    sipRound ⟨0xffffffffffffffff, 1, 0xffffffffffffffff, 1⟩ =
      ⟨0x0000000000010000, 0x0000000040002000, 0x0000200000000000, 0x0000002000010000⟩ ∧
    sipRound ⟨0x8000000000000000, 0x8000000000000000, 0, 0⟩ = ⟨0, 0x0000000020001000, 0x0000100000000000, 0⟩ ∧
    sipRoundInverse ⟨0, 0x0000000020001000, 0x0000100000000000, 0⟩ =
      ⟨0x8000000000000000, 0x8000000000000000, 0, 0⟩ := by decide
/-- P2 and P6 (ZERO_LEN, key Z): digests of packet sequences. -/
theorem test_digests : keyedHash keyK0 keyK1 [0x0706050403020100, 0x0f0e0d0c0b0a0908] = 0xa129ca6149be45e5 ∧
    keyedHash 0 0 [0x0300000000636261] = 0x3fc884964770eede := by decide

/-! ### One step of each command (sections 3, 4 and 6) -/

/-- I3: key F. -/
theorem test_init_all_ones : (nextOf (exec (.init 0xffffffffffffffff 0xffffffffffffffff) (small .absorbing []))).map (·.v) =
    some ⟨0x8c90929a8f8c9a8a, 0x9b908d9e919b9092, 0x9386989a919a8d9e, 0x8b9a9b9d868b9a8c⟩ := by decide
/-- E8: INIT after faults in FINALIZED: STATUS 0x51. -/
theorem test_init_keeps_error : (nextOf (runCommand (word 0 0 1) (raiseFault .sequence (small .finalized [])))).map
    (fun t => (t.v.v0, statusWord t)) = some (0x736f6d6570736575, 0x51) := by decide
/-- A2: the all-ones packet on INIT(K). -/
theorem test_absorb_all_ones : (nextOf (exec (.absorb 0xffffffffffffffff)
      { small .initialized [] with v := initLanes keyK0 keyK1 })).map (fun t => (t.v, statusWord t)) =
    some (⟨0x27402b5dec61e378, 0xd2c7e7018df56131, 0x22635692bbdd9127, 0xa914736fea87a23c⟩, 0x02) := by decide
/-- E1: ABSORB after reset: STATUS 0x50. -/
theorem test_absorb_in_idle : (nextOf (runCommand (word 0 1 2) (small .idle []))).map (fun t => (t.v, statusWord t)) =
    some (⟨1, 2, 3, 4⟩, 0x50) := by decide
/-- FA2: FINALIZE on A2's result. -/
theorem test_finalize_after_absorb : (nextOf (exec .finalize { small .absorbing [] with
      v := ⟨0x27402b5dec61e378, 0xd2c7e7018df56131, 0x22635692bbdd9127, 0xa914736fea87a23c⟩ })).map
    (fun t => (t.digest, statusWord t)) = some (0xe3bcbde525c213f4, 0x0b) := by decide
/-- E7: a second FINALIZE leaves the digest: STATUS 0x5b. -/
theorem test_finalize_twice : (nextOf (exec .finalize (small .finalized []))).map
    (fun t => (t.v, t.digest, statusWord t)) = some (⟨1, 2, 3, 4⟩, 7, 0x5b) := by decide
/-- E4: a reserved opcode after reset: STATUS 0x30. -/
theorem test_reserved_opcode : (nextOf (runCommand (word 6 5 4) (small .idle []))).map statusWord = some 0x30 := by decide
/-- E5: the first cause is kept: STATUS 0x50. -/
theorem test_first_cause_kept : (nextOf (runCommand (word 0 0 0xff) (raiseFault .sequence (small .idle [])))).map
    statusWord = some 0x50 := by decide
/-- The first command after reset runs. -/
theorem test_first_command_after_reset :
    (nextOf (step (State.reset.withFetchWord 136 0x0f0e0d0c0b0a0908070605040302010001))).map (fun t => (t.v, statusWord t)) =
      some (⟨0x7469686173716475, 0x6b617f6d656e6665, 0x6b7f62616d677361, 0x7b6b696e727e6c7b⟩, 0x01) := by decide

/-- R193, R194: an INIT accepted in FINALIZED, in flight: the previous digest on the port, and STATUS 0x0b with BUSY (bit 2). -/
theorem test_ports_while_busy :
    let c := acceptCommand { init := 2, absorb := 2, finalize := 2, fault := 2 } (word 0 0 1)
      { arch := small .finalized [], inflight := none }
    digestPort .sync ⟨false, false, 0⟩ c = some 7 ∧ statusPort .sync ⟨false, false, 0⟩ c = 0x0f := by decide

/-! ### Host side -/

/-- P6: the packet of "abc" in the two padding modes; over-read takes what memory holds. -/
theorem test_padding_modes :
    let mem : List Host.Cell := [(16, 0x61), (17, 0x62), (18, 0x63), (19, 0xaa), (20, 0), (21, 0), (22, 0), (23, 0xbb)]
    driverPackets .zero mem 16 3 = some [0x0000000000636261] ∧
    driverPackets .zeroLen mem 16 3 = some [0x0300000000636261] ∧
    driverPackets .overread mem 16 3 = some [0xbb000000aa636261] ∧
    driverPackets .overread mem 17 3 = none ∧ driverPackets .zeroLen [] 0 0 = some [0] ∧
    driverPackets .zero [] 0 0 = some [] := by decide
/-- R83: ABSORBBYTES. -/
theorem test_absorb_bytes : expandLine [] (.absorbBytes 0x61 0x62 0x63 0 0 0 0 3) = some [.absorb 0x0300000000636261] ∧
    expandLine [] (.absorbBytes 256 0 0 0 0 0 0 0) = none := by decide

/-- R83's INIT line as text, with a comment. -/
theorem test_text_init : assembleTextLine ['I', 'N', 'I', 'T', ' ', '0', 'x', '0', '7', '0', '6', '0', '5', '0', '4', '0', '3', '0', '2', '0', '1', '0', '0', ',', ' ', '0', 'x', '0', 'f', '0', 'e', '0', 'd', '0', 'c', '0', 'b', '0', 'a', '0', '9', '0', '8', ' ', '#', ' ', 'K'] =
    some [0x0f0e0d0c0b0a0908070605040302010001] := by decide
/-- R83's ABSORBBYTES line as text, a `.cmd` line, and lines that are refused. -/
theorem test_text_lines :
    assembleTextLine ['A', 'B', 'S', 'O', 'R', 'B', 'B', 'Y', 'T', 'E', 'S', ' ', '0', 'x', '6', '1', ',', ' ', '0', 'x', '6', '2', ',', ' ', '0', 'x', '6', '3', ',', ' ', '0', ',', ' ', '0', ',', ' ', '0', ',', ' ', '0', ',', ' ', '0', 'x', '0', '3'] =
      some [0x030000000063626102] ∧
    assembleTextLine [' ', ' ', '.', 'c', 'm', 'd', ' ', '0', 'x', '0', '7', ',', ' ', '0', ',', '1', '0'] = some [word 10 0 7] ∧
    assembleTextLine ['N', 'O', 'P'] = none ∧ assembleTextLine ['A', 'B', 'S', 'O', 'R', 'B'] = none ∧
    assembleTextLine ['A', 'B', 'S', 'O', 'R', 'B', ' ', '0', 'x'] = none ∧ assembleTextLine ['F', 'I', 'N', 'A', 'L', 'I', 'Z', 'E', ' ', '1'] = none := by decide
/-- P3's text gives its two commands. -/
theorem test_text_program :
    assembleText ['I', 'N', 'I', 'T', ' ', '1', ',', '2', '\n', 'F', 'I', 'N', 'A', 'L', 'I', 'Z', 'E'] =
      some [encode (.init 1 2), encode .finalize] := by decide

/-! ### Witnesses: the hypotheses of each obligation, met by concrete terms -/

/-- Pins with and without reset, with and without a command. -/
def pins (rst valid : Bool) : Pins := ⟨rst, valid, word 0 1 2⟩

def latencies : Latency := { init := 1, absorb := 2, finalize := 4, fault := 1 }

theorem witness_ResetValuesOfRegisters : (small .absorbing [.reset]).hostMoves.head? = some .reset := by decide
theorem witness_ResetHoldsTheEngine : (pins true true).rst = true ∧ (pins false false).rst = false ∧
    (pins false false).cmdValid = false := by decide
theorem witness_ResetAbandonsCommandInFlight : (pins true false).rst = true ∧
    (small .idle []).hostMoves = (small .absorbing []).hostMoves ∧
    (small .idle []).replies = (small .absorbing []).replies := by
  decide
theorem witness_OnlyResetClearsErrorsAndPhase :
    (nextOf (step (small .idle [.readStatus]))).isSome = true ∧
    (small .idle [.readStatus]).hostMoves.head? ≠ some .reset ∧
    (small .idle [.reset]).hostMoves.head? = some .reset ∧ (raiseFault .sequence (small .idle [])).err = true := by decide
/-- Every row and every phase of the table, and the reserved opcodes next to the assigned ones. -/
theorem witness_PhaseTransitionsFollowTable :
    opField (word 0 0 1) = 0x01 ∧ opField (word 0 0 2) = 0x02 ∧ opField (word 0 0 3) = 0x03 ∧
    opField (word 0 0 0) ≠ 0x01 ∧ opField (word 0 0 4) ≠ 0x03 ∧
    (nextOf (runCommand (word 0 0 2) (small .initialized []))).map (·.phase) = some .absorbing ∧
    (nextOf (runCommand (word 0 0 3) (small .absorbing []))).map (·.phase) = some .finalized ∧
    (nextOf (runCommand (word 0 0 3) (small .idle []))).map (·.phase) = some .idle ∧
    (nextOf (runCommand (word 0 0 2) (small .finalized []))).map (·.phase) = some .finalized ∧
    (nextOf (runCommand (word 0 0 4) (small .absorbing []))).map (·.phase) = some .absorbing := by decide
theorem witness_ReservedOpcodeRaisesIllegalCmd : (0x00 : Byte) ≠ 0x01 ∧ (0x04 : Byte) ≠ 0x03 ∧ (0xff : Byte) ≠ 0x02 ∧
    (small .idle [.command (packCommand 0x04 5 6)]).busy = false ∧
    (small .idle [.command (packCommand 0x04 5 6)]).hostMoves = .command (packCommand 0x04 5 6) :: [] := by decide
theorem witness_OutOfPhaseRaisesSequence : (small .idle []).phase = .idle ∧ (small .finalized []).phase = .finalized := by
  decide
theorem witness_FaultIsSinglePreciseAndRecorded :
    (nextOf (runCommand (word 0 0 4) (small .idle []))).map (·.ecause) = some .illegalCmd ∧
    (nextOf (runCommand (word 0 0 3) (small .idle []))).map (·.ecause) = some .sequence ∧
    (nextOf (runCommand (word 0 0 3) (small .initialized []))).map (·.ecause) = some .none := by decide
theorem witness_ErrAndCauseAreSticky :
    (raiseFault .sequence (small .idle [.readStatus])).err = true ∧
    (raiseFault .sequence (small .idle [.readStatus])).ecause ≠ .none ∧
    (nextOf (step (raiseFault .sequence (small .idle [.readStatus])))).map (·.err) = some true ∧
    (nextOf (runCommand (word 0 0 4) (small .idle []))).map (·.err) = some true ∧
    (nextOf (runCommand (word 0 0 1) (small .idle []))).map (·.err) = some false ∧
    (small .idle [.reset]).hostMoves.head? = some .reset := by decide
theorem witness_EngineWorksOnAfterFault : opField (word 0 0 1) = 0x01 := by decide
theorem witness_InitLoadsKeyedState : opField (word 2 1 1) = 0x01 ∧ (0 : Nat) < 64 ∧ (63 : Nat) < 64 := by decide
theorem witness_InitReplacesAnyComputation :
    (small .absorbing [.command (word 0 0 3)]).phase = .absorbing ∧
    (nextOf (step (small .absorbing [.command (word 0 0 3)]))).map (·.phase) = some .finalized ∧
    (nextOf (step (small .initialized [.readStatus]))).map (·.phase) = some .initialized := by decide
theorem witness_AbsorbMixesPacket : opField (word 9 1 2) = 0x02 ∧ (small .initialized []).phase = .initialized ∧
    (small .absorbing []).phase = .absorbing ∧ (small .idle []).phase = .idle ∧
    (small .finalized []).phase = .finalized := by decide
theorem witness_AbsorbIsReentrant :
    (small .initialized (presentAll ([1, 2].map .absorb))).busy = false ∧
    (small .initialized (presentAll ([1, 2].map .absorb))).phase = .initialized ∧
    (small .initialized (presentAll ([1, 2].map .absorb))).hostMoves = presentAll ([1, 2].map .absorb) ++ [] := by decide
theorem witness_FinalizeProducesDigest : opField (word 9 9 3) = 0x03 ∧ (small .initialized []).phase = .initialized ∧
    (small .absorbing []).phase = .absorbing ∧ (small .idle []).phase = .idle ∧
    (small .finalized []).phase = .finalized := by decide
theorem witness_CommandsLeaveTheRestUnchanged :
    (nextOf (exec (.init 1 2) (small .finalized []))).isSome = true ∧
    (nextOf (exec (.absorb 1) (small .absorbing []))).isSome = true ∧
    (nextOf (exec (.absorb 1) (small .idle []))).isSome = true ∧
    (nextOf (exec .finalize (small .initialized []))).isSome = true ∧
    (nextOf (exec .finalize (small .finalized []))).isSome = true := by decide
theorem witness_CommandSequenceYieldsKeyedHash :
    (small .finalized (reducerMoves 1 2 [])).busy = false ∧
    (small .finalized (reducerMoves 1 2 [])).hostMoves = reducerMoves 1 2 [] ++ [] ∧
    (small .idle (reducerMoves 1 2 [3])).hostMoves = reducerMoves 1 2 [3] ++ [] := by decide
theorem witness_StateWordsWrittenOnlyByCommands :
    (nextOf (step (small .absorbing [.command (word 0 0 2)]))).isSome = true ∧
    (small .absorbing [.command (word 0 0 2)]).hostMoves.head? ≠ some .reset ∧
    (small .absorbing [.command (word 0 0 2)]).hostMoves.head? = some (.command (word 0 0 2)) ∧
    (nextOf (step (small .idle [.command (word 0 0 0)]))).map (·.v) = some ⟨1, 2, 3, 4⟩ ∧
    (nextOf (step (small .finalized [.readDigest]))).map (·.v) = some ⟨1, 2, 3, 4⟩ := by decide
theorem witness_RotationIsCircular : (0 : Nat) < 1 ∧ (1 : Nat) < 64 ∧ (63 : Nat) < 64 ∧
    (rotl64 0x8000000000000000 1).getLsbD 0 = true ∧ (rotl64 1 63).getLsbD 63 = true := by decide
theorem witness_PermutationIsBijective : (0 : Nat) < 1 ∧ (63 : Nat) < 64 ∧ rotr64 (rotl64 5 63) 63 = 5 := by decide
theorem witness_KeysAndStatesStayDistinct : initLanes 1 2 = initLanes 1 2 := rfl
theorem witness_StatusWordLayout : (small .idle [.readStatus]).hostMoves = .readStatus :: [] := by decide
theorem witness_PortReadsAreRepeatable :
    (small .idle [.readStatus, .readStatus]).hostMoves = .readStatus :: .readStatus :: [] ∧
    (small .finalized [.readDigest, .readDigest]).dv = true ∧
    (small .finalized [.readDigest, .readDigest]).hostMoves = .readDigest :: .readDigest :: [] := by decide
theorem witness_DigestValidLifecycle :
    (nextOf (runCommand (word 0 0 1) (small .finalized []))).map (·.dv) = some false ∧
    (nextOf (runCommand (word 0 0 3) (small .initialized []))).map (·.dv) = some true ∧
    (nextOf (runCommand (word 0 0 3) (small .finalized []))).map (·.dv) = some true ∧
    (small .idle [.reset]).hostMoves.head? = some .reset ∧ (small .idle []).dv = false := by decide
theorem witness_DigestWrittenOnlyByFinalize :
    (nextOf (runCommand (word 0 0 3) (small .absorbing []))).isSome = true ∧
    (nextOf (runCommand (word 0 0 2) (small .absorbing []))).map (·.digest) = some 7 ∧
    readDigest (small .finalized []) = some 7 := by decide
theorem witness_DigestReadHasValueWhenValid :
    (small .absorbing []).phase = .absorbing ∧ opField (word 0 0 3) = 0x03 ∧
    (nextOf (runCommand (word 0 0 3) (small .absorbing []))).isSome = true ∧
    (small .finalized [.command (word 0 0 2)]).Inv ∧
    (nextOf (step (small .finalized [.command (word 0 0 2)]))).map readDigest = some (some 7) ∧
    (small .finalized [.command (word 0 0 2)]).dv = true ∧
    (small .idle [.readDigest]).dv = false ∧ (small .idle [.readDigest]).hostMoves = .readDigest :: [] := by decide
theorem witness_HandshakeAcceptsWhenReady : (pins false true).rst = false ∧ (small .idle []).busy = false ∧
    (pins false true).cmdValid = true ∧ (pins false false).cmdValid = false ∧ (pins false true).rst = (pins false false).rst ∧
    1 < ({ cmd := word 0 0 3, left := 2 } : Inflight).left ∧ (pins true true).rst = true ∧ (pins true false).rst = true := by
  decide
theorem witness_PortIsIgnoredWhileInFlight : (pins false true).rst = (pins false false).rst := by decide
/-- A waiting list shorter than the latency, and one of exactly its length. -/
theorem witness_ClockedCommandRefinesTransaction : latencies.wf = true ∧ (small .initialized []).busy = false ∧
    (pins false true).rst = false ∧ (pins false true).cmdValid = true ∧ (pins false true).cmd = word 0 1 2 ∧
    (∀ q ∈ [pins false false, pins false false], q.rst = false ∧ q.cmdValid = false) ∧
    [pins false false].length < latencies.absorb ∧
    [pins false false, pins false false].length = latencies.absorb ∧ ([] : List Pins).length < latencies.init := by decide
/-- A FINALIZE in its last cycle before completion and at it, from DV = 0; one that faults, from DV = 1. -/
theorem witness_PortsShowValuesFromBeforeTheCommand : latencies.wf = true ∧ (small .absorbing []).busy = false ∧
    (pins false true).rst = false ∧ (pins false true).cmdValid = true ∧ (pins false false).rst = false ∧
    (∀ w ∈ List.replicate 4 (pins false false), w.rst = false ∧ w.cmdValid = false) ∧
    (List.replicate 3 (pins false false)).length < latencyOf latencies (word 0 0 3) (small .absorbing []).phase ∧
    (List.replicate 4 (pins false false)).length = latencyOf latencies (word 0 0 3) (small .absorbing []).phase ∧
    (small .absorbing []).dv = false ∧ (small .finalized []).dv = true ∧
    ([] : List Pins).length < latencyOf latencies (word 0 0 3) (small .finalized []).phase := by decide
theorem witness_LatencyIndependentOfData : latencies.wf = true ∧ (small .absorbing []).phase = (raiseFault .sequence (small .absorbing [])).phase ∧
    (small .absorbing []).busy = false ∧ (raiseFault .sequence (small .absorbing [])).busy = false ∧
    (∀ q ∈ [pins false false], q.rst = false ∧ q.cmdValid = false) ∧
    [pins false false].length < latencyOf latencies (packCommand 2 0 0) (small .absorbing []).phase ∧
    [pins false false].length = latencyOf latencies (packCommand 0 0 0) (small .absorbing []).phase := by decide
theorem witness_FieldsMakeUpTheCommand : word 3 2 1 = packCommand 1 2 3 ∧ opField (word 3 2 1) = 1 ∧
    aField (word 3 2 1) = 2 ∧ bField (word 3 2 1) = 3 ∧ (7 : Nat) < 8 ∧ (8 : Nat) ≤ 71 ∧ (71 : Nat) < 72 ∧
    (72 : Nat) ≤ 135 ∧ (135 : Nat) < 136 := by decide
theorem witness_DecodeOfEncodeIsIdentity : (Instr.init 1 2).wf = true := by decide
theorem witness_EncodingIsCanonical : decode (word 9 1 2) = .command (.absorb 1) := by decide
theorem witness_AssemblerEncodesOrRefuses : (255 : Nat) < 256 ∧ (18446744073709551615 : Nat) < 18446744073709551616 ∧
    (assembleLine (.raw 255 18446744073709551615 18446744073709551615)).isSome = true ∧
    assembleLine (.raw 256 0 0) = none ∧ assembleLine (.init 18446744073709551616 0) = none ∧
    assembleLine (.absorb 18446744073709551616) = none := by decide
theorem witness_AssemblerTextReadsCommands : '#' ∉ ['N', 'O', 'P'] ∧ '\n' ∉ ['N', 'O', 'P'] ∧ ['4', '2'] ≠ [] ∧
    (∀ c ∈ ['4', '2'], 48 ≤ c.toNat ∧ c.toNat ≤ 57) ∧
    ['4', '2'].foldl (fun n c => n * 10 + (c.toNat - 48)) 0 = (42 : Word).toNat :=
  ⟨by decide, by decide, by decide, by simp, rfl⟩
theorem witness_StepRunsDecodedCommand : (small .idle [.command (word 0 1 2)]).busy = false ∧
    (small .idle [.command (word 0 1 2)]).hostMoves = .command (word 0 1 2) :: [] ∧
    decode (word 0 1 2) = .command (.absorb 1) ∧ decode (word 0 1 0) = .illegal 0 := by decide
theorem witness_PlacedWordRunsNext : decodeTableWord 136 0x102 = some (.absorb 1) := by decide
theorem witness_EveryStepAnswers : (small .idle []).hostMoves = [] := by decide
theorem witness_EveryStepKeepsTheStateInvariant : (small .initialized [.command (word 0 0 3)]).Inv ∧
    (nextOf (step (small .initialized [.command (word 0 0 3)]))).map (·.dv) = some true := by decide
theorem witness_EveryTickKeepsTheClockedInvariant : latencies.wf = true ∧
    Clocked.Inv { arch := small .initialized [], inflight := none } := by
  refine ⟨by decide, by decide, ?_, by decide, by decide⟩
  intro f h
  cases h
theorem witness_FaultedRunIsNeverFinal : (raiseFault .sequence (small .idle [.readStatus])).err = true ∧
    .reset ∉ (raiseFault .sequence (small .idle [.readStatus])).hostMoves ∧
    (nextOf (runSteps 1 (raiseFault .sequence (small .idle [.readStatus])))).isSome = true := by decide
theorem witness_UnreadableBitsAreUnobservable :
    (small .idle [.command (word 0 0 1)]).SamePorts { small .idle [.command (word 0 0 1)] with v := ⟨9, 9, 9, 9⟩, digest := 0 } := by
  decide
theorem witness_InstancesAreIndependent : (0 : Nat) ≠ 1 ∧
    stepInstance 0 [small .idle [], small .idle [.readStatus]] = .next [small .idle [], small .idle [.readStatus]] ∧
    ∃ y, stepInstance 1 [small .idle [], small .idle [.readStatus]] = .next y := ⟨by decide, rfl, _, rfl⟩
theorem witness_DriverPacketCounts : driverPackets .overread [] 0 0 = some [] ∧ driverPackets .zero [(0, 1)] 0 1 = some [1] ∧
    driverPackets .zeroLen [] 0 0 = some [0] := by decide
theorem witness_DriverRunLeavesKeyedHash : 8 % 8 = 0 ∧ driverPackets .zero [(0, 1)] 0 1 = some [1] ∧
    driverMoves .zero 5 6 [(0, 1)] 0 1 = some (reducerMoves 5 6 [1]) ∧
    (small .idle (reducerMoves 5 6 [1])).busy = false ∧
    (small .idle (reducerMoves 5 6 [1])).hostMoves = reducerMoves 5 6 [1] ++ [] := by decide
/-- A SEQUENCE fault, then a reset: the run ended at the fault (R199), and the reset does not alter its result. -/
theorem test_result_before_reset : (resultOfRun 2 (small .idle [.command (word 0 0 3), .reset])).map RunResult.ecause =
    some .sequence := by decide
theorem witness_RunEndsWhenLastCommandCompletes :
    (small .idle [.readStatus, .command (word 0 0 1), .readDigest, .reset]).busy = false ∧
    (∀ m ∈ [HostMove.readDigest, .reset], m = .readStatus ∨ m = .readDigest ∨ m = .reset) ∧
    .readDigest ∉ [HostMove.readStatus] ∧
    (nextOf (runSteps 2 (small .idle [.readStatus, .command (word 0 0 1), .readDigest, .reset]))).isSome = true := by decide

end Sys2Proof.Tests
end

section
/-!
PROOFS of the family 00_scope.md: the circular rotation of R14, bit by bit.
-/

namespace Sys2Proof.Machine

/-- Below the rotation amount come the bits that wrapped around, from it on the bits that moved up (R14). -/
theorem getLsbD_rotl64 (x : Word) {n i : Nat} (hn : n < 64) (hi : i < 64) :
    (rotl64 x n).getLsbD i = if i < n then x.getLsbD (64 - n + i) else x.getLsbD (i - n) := by
  rw [rotl64_eq_rotateLeft x hn, BitVec.getLsbD_rotateLeft, Nat.mod_eq_of_lt hn]
  by_cases h : i < n <;> simp [h, hi]

/-- Settles O21: `i + (64 - n)` stays below 64 exactly for the bits that wrapped around. -/
theorem rotationIsCircular : Obligations.RotationIsCircular := by
  intro x n i hpos hn hi
  rw [getLsbD_rotl64 x hn hi]
  by_cases h : i < n
  · have source : (i + (64 - n)) % 64 = 64 - n + i := by omega
    rw [if_pos h, source]
  · have source : (i + (64 - n)) % 64 = i - n := by omega
    rw [if_neg h, source]

end Sys2Proof.Machine
end

section
/-!
PROOFS of the family 00_scope.md: the byte order of a packet (R17, R51).
-/

namespace Sys2Proof.Machine

/-- Concatenation as a sum: the low part is below the place of the high part. -/
theorem toNat_append_eq_mul_add {m n : Nat} (x : BitVec m) (y : BitVec n) :
    (x ++ y).toNat = x.toNat * 2 ^ n + y.toNat := by
  rw [BitVec.toNat_append, ← Nat.shiftLeft_add_eq_or_of_lt y.isLt, Nat.shiftLeft_eq]

theorem toNat_packetByte (a : Word) (i : Nat) : (packetByte a i).toNat = a.toNat / 2 ^ (8 * i) % 2 ^ 8 := by
  rw [packetByte, BitVec.extractLsb'_toNat, Nat.shiftRight_eq_div_pow]

section
variable (b0 b1 b2 b3 b4 b5 b6 b7 : Byte)

theorem toNat_le64 :
    (le64 b0 b1 b2 b3 b4 b5 b6 b7).toNat =
      b0.toNat + b1.toNat * 2 ^ 8 + b2.toNat * 2 ^ 16 + b3.toNat * 2 ^ 24 + b4.toNat * 2 ^ 32 + b5.toNat * 2 ^ 40 +
        b6.toNat * 2 ^ 48 + b7.toNat * 2 ^ 56 := by
  have horner : (le64 b0 b1 b2 b3 b4 b5 b6 b7).toNat =
      ((((((b7.toNat * 2 ^ 8 + b6.toNat) * 2 ^ 8 + b5.toNat) * 2 ^ 8 + b4.toNat) * 2 ^ 8 + b3.toNat) * 2 ^ 8 +
        b2.toNat) * 2 ^ 8 + b1.toNat) * 2 ^ 8 + b0.toNat := by
    simp only [le64, toNat_append_eq_mul_add]
  rw [horner]
  ring

/-- Byte `i` is digit `i` to base 256 of the sum: the places below it are less than `2 ^ (8 * i)`. -/
theorem packetByte_le64 (i : Nat) (hi : i < 8) :
    packetByte (le64 b0 b1 b2 b3 b4 b5 b6 b7) i = [b0, b1, b2, b3, b4, b5, b6, b7][i] := by
  apply BitVec.eq_of_toNat_eq
  rw [toNat_packetByte, toNat_le64]
  interval_cases i <;> simp only [List.getElem_cons_zero, List.getElem_cons_succ] <;> omega

end

/-- Field A of an ABSORB command is its packet (R81). -/
@[simp] theorem aField_encode_absorb (packet : Word) : aField (encode (.absorb packet)) = packet := by
  obtain ⟨-, -, ha, -⟩ := Laws.EncodedFields.absorb packet
  exact ha

/-- Settles O46: the packet is field A of the command, and each of its bytes is read off the concatenation. -/
theorem packetBytesAreLittleEndian : Obligations.PacketBytesAreLittleEndian := by
  intro b0 b1 b2 b3 b4 b5 b6 b7
  have byte := packetByte_le64 b0 b1 b2 b3 b4 b5 b6 b7
  refine ⟨toNat_le64 b0 b1 b2 b3 b4 b5 b6 b7, rfl, ?_⟩
  rw [aField_encode_absorb]
  exact ⟨byte 0 (by decide), byte 1 (by decide), byte 2 (by decide), byte 3 (by decide),
    byte 4 (by decide), byte 5 (by decide), byte 6 (by decide), byte 7 (by decide)⟩

end Sys2Proof.Machine
end

section
/-!
PROOFS of the family 10_state.md: what a command and a step of the machine can do, read from the next state.
-/

namespace Sys2Proof.Machine

/-- The states an accepted command can leave (R80, R154): by the command's own rule, or with one fault recorded. -/
inductive CommandEffect (cmd : Command) (s : State) : State → Prop where
  | init (op : opField cmd = 0x01#8) :
      CommandEffect cmd s { s with v := initLanes (aField cmd) (bField cmd), phase := .initialized, dv := false }
  | absorb (op : opField cmd = 0x02#8) (hp : inSequence s.phase = true) :
      CommandEffect cmd s { s with v := absorbLanes (aField cmd) s.v, phase := .absorbing }
  | finalize (op : opField cmd = 0x03#8) (hp : inSequence s.phase = true) :
      CommandEffect cmd s
        { s with v := finalLanes s.v, digest := digestFold (finalLanes s.v), dv := true, phase := .finalized }
  | sequenceFault (op : opField cmd = 0x02#8 ∨ opField cmd = 0x03#8) (hp : inSequence s.phase = false) :
      CommandEffect cmd s (raiseFault .sequence s)
  | illegalFault (op : opField cmd ≠ 0x01#8 ∧ opField cmd ≠ 0x02#8 ∧ opField cmd ≠ 0x03#8) :
      CommandEffect cmd s (raiseFault .illegalCmd s)

theorem runCommand_effect {cmd : Command} {s t : State} (h : runCommand cmd s = .next t) : CommandEffect cmd s t := by
  rcases runCommand_cases cmd s with ⟨op, hr⟩ | ⟨op, hp, hr⟩ | ⟨op, hp, hr⟩ | ⟨op, hp, hr⟩ | ⟨op, hr⟩ <;>
    cases hr.symm.trans h
  · exact .init op
  · exact .absorb op hp
  · exact .finalize op hp
  · exact .sequenceFault op hp
  · exact .illegalFault op

/-- A command either records a fault and writes nothing else, or leaves ERR and ECAUSE alone; the latter only with an
assigned opcode that the phase allows (R154 to R156). -/
theorem runCommand_faults_or_keeps_err {cmd : Command} {s t : State} (h : runCommand cmd s = .next t) :
    (∃ c, c ≠ .none ∧ t = raiseFault c s) ∨
    (t.err = s.err ∧ t.ecause = s.ecause ∧
      (opField cmd = 0x01#8 ∨ ((opField cmd = 0x02#8 ∨ opField cmd = 0x03#8) ∧ inSequence s.phase = true))) := by
  cases runCommand_effect h with
  | init op => exact .inr ⟨rfl, rfl, .inl op⟩
  | absorb op hp => exact .inr ⟨rfl, rfl, .inr ⟨.inl op, hp⟩⟩
  | finalize op hp => exact .inr ⟨rfl, rfl, .inr ⟨.inr op, hp⟩⟩
  | sequenceFault => exact .inl ⟨.sequence, by decide, rfl⟩
  | illegalFault => exact .inl ⟨.illegalCmd, by decide, rfl⟩

theorem popMove_of_hostMoves {s : State} {m : HostMove} {rest : List HostMove} (hm : s.hostMoves = m :: rest) :
    popMove s = { s with hostMoves := rest } := by
  rw [popMove, hm, List.tail_cons]

section
variable {s : State}

theorem step_idle (hm : s.hostMoves.head? = none) : step s = .next s := by
  simp [step, hostStep, List.head?_eq_none_iff.mp hm]

theorem step_command {cmd : Command} (hm : s.hostMoves.head? = some (.command cmd)) :
    step s = if s.busy then .next s else runCommand cmd (popMove s) := by
  obtain ⟨rest, hm⟩ := List.head?_eq_some_iff.mp hm
  cases hb : s.busy <;> simp [step, hostStep, hm, presentCommand, cmdReady, hb]

theorem step_readStatus (hm : s.hostMoves.head? = some .readStatus) :
    step s = .next (giveReply (.status (statusWord s)) (popMove s)) := by
  obtain ⟨rest, hm⟩ := List.head?_eq_some_iff.mp hm
  simp [step, hostStep, hm, hostReadStatus]

theorem step_readDigest (hm : s.hostMoves.head? = some .readDigest) :
    step s = if s.dv then .next (giveReply (.digest s.digest) (popMove s)) else .fault .digestNotValid := by
  obtain ⟨rest, hm⟩ := List.head?_eq_some_iff.mp hm
  cases hd : s.dv <;> simp [step, hostStep, hm, hostReadDigest, readDigest, hd]

theorem step_applyReset (hm : s.hostMoves.head? = some .reset) : step s = .next (applyReset (popMove s)) := by
  obtain ⟨rest, hr, hs⟩ := step_reset hm
  rw [hs, popMove_of_hostMoves hr, applyReset]

end

/-- The states a step can leave, by the host's oldest move. -/
inductive StepEffect (s : State) : State → Prop where
  | idle (hm : s.hostMoves.head? = none) : StepEffect s s
  | command (cmd : Command) (t : State) (hm : s.hostMoves.head? = some (.command cmd)) (hb : s.busy = false)
      (run : runCommand cmd (popMove s) = .next t) : StepEffect s t
  | held (cmd : Command) (hm : s.hostMoves.head? = some (.command cmd)) (hb : s.busy = true) : StepEffect s s
  | readStatus (hm : s.hostMoves.head? = some .readStatus) :
      StepEffect s (giveReply (.status (statusWord s)) (popMove s))
  | readDigest (hm : s.hostMoves.head? = some .readDigest) (hd : s.dv = true) :
      StepEffect s (giveReply (.digest s.digest) (popMove s))
  | reset (hm : s.hostMoves.head? = some .reset) : StepEffect s (applyReset (popMove s))

theorem step_effect {s t : State} (h : step s = .next t) : StepEffect s t := by
  rcases hm : s.hostMoves.head? with _ | m
  · cases (step_idle hm).symm.trans h
    exact .idle hm
  cases m with
  | command cmd =>
    have run := (step_command hm).symm.trans h
    cases hb : s.busy with
    | false => exact .command cmd t hm hb (by simpa [hb] using run)
    | true =>
      obtain rfl : s = t := by simpa [hb] using run
      exact .held cmd hm hb
  | readStatus =>
    cases (step_readStatus hm).symm.trans h
    exact .readStatus hm
  | readDigest =>
    have read := (step_readDigest hm).symm.trans h
    cases hd : s.dv with
    | false => simp [hd] at read
    | true =>
      simp only [hd, if_true] at read
      cases read
      exact .readDigest hm hd
  | reset =>
    cases (step_applyReset hm).symm.trans h
    exact .reset hm

end Sys2Proof.Machine
end

section
/-!
PROOFS of the family 10_state.md: the invariants of R25, R27, R28, R30 and R40.
-/

namespace Sys2Proof.Machine

theorem resetAt_inv (n : Nat) (moves : List HostMove) (replies : List Reply) :
    (State.resetAt n moves replies).Inv := by
  refine ⟨rfl, ?_, ?_⟩ <;> simp

theorem raiseFault_inv {s : State} {c : Cause} (hc : c ≠ .none) (h : s.Inv) : (raiseFault c s).Inv := by
  obtain ⟨hb, hdv, -⟩ := h
  exact ⟨hb, hdv, fun _ => raiseFault_ecause_ne_none hc s, fun _ => rfl⟩

/-- DV changes with PHASE in INIT and FINALIZE; ABSORB runs only where DV is 0 before it and leaves a phase where it is 0. -/
theorem runCommand_inv {cmd : Command} {s t : State} (h : s.Inv) (run : runCommand cmd s = .next t) : t.Inv := by
  obtain ⟨hb, hdv, herr⟩ := h
  cases runCommand_effect run with
  | init => exact ⟨hb, by simp, herr⟩
  | absorb _ hp =>
    have notFinalized : s.phase ≠ .finalized := by
      intro hf
      simp [hf] at hp
    exact ⟨hb, by simp [hdv, notFinalized], herr⟩
  | finalize => exact ⟨hb, by simp, herr⟩
  | sequenceFault => exact raiseFault_inv (by decide) ⟨hb, hdv, herr⟩
  | illegalFault => exact raiseFault_inv (by decide) ⟨hb, hdv, herr⟩

/-- Settles O50: by the host's oldest move; only a command and a reset change a register. -/
theorem everyStepKeepsTheStateInvariant : Obligations.EveryStepKeepsTheStateInvariant := by
  intro s t h hs
  cases step_effect hs with
  | idle => exact h
  | command cmd _ _ _ run => exact runCommand_inv (s := popMove s) h run
  | held => exact h
  | readStatus => exact h
  | readDigest => exact h
  | reset => exact resetAt_inv _ _ _

/-- Settles O51: the first reset is a `State.resetAt`. -/
theorem resetMeetsTheStateInvariant : Obligations.ResetMeetsTheStateInvariant :=
  resetAt_inv 0 [] []

theorem one_le_latencyOf {lat : Latency} (h : lat.wf = true) (cmd : Command) (p : Phase) :
    1 ≤ latencyOf lat cmd p := by
  simp only [Latency.wf, Bool.and_eq_true, decide_eq_true_eq] at h
  obtain ⟨⟨⟨hi, ha⟩, hf⟩, he⟩ := h
  unfold latencyOf
  split
  · exact hi
  · split <;> assumption
  · split <;> assumption
  · exact he

/-- With no command in flight the clocked invariant is that of the transaction-level state. -/
theorem clockedInv_none_iff (a : State) : Clocked.Inv { arch := a, inflight := none } ↔ a.Inv := by
  simp [Clocked.Inv]

theorem resetClocked_inv (c : Clocked) : (resetClocked c).Inv :=
  (clockedInv_none_iff _).mpr (resetAt_inv _ _ _)

theorem acceptCommand_inv {lat : Latency} (hl : lat.wf = true) (cmd : Command) {a : State} (h : a.Inv) :
    (acceptCommand lat cmd { arch := a, inflight := none }).Inv := by
  obtain ⟨-, hdv, herr⟩ := h
  refine ⟨rfl, ?_, hdv, herr⟩
  rintro f ⟨⟩
  exact one_le_latencyOf hl cmd a.phase

theorem completeCommand_inv {cmd : Command} {c t : Clocked} (h : c.Inv) (hc : completeCommand cmd c = .next t) :
    t.Inv := by
  obtain ⟨-, -, hdv, herr⟩ := h
  obtain ⟨a, run⟩ := runCommand_next cmd { c.arch with busy := false }
  cases (completeCommand_eq run).symm.trans hc
  exact (clockedInv_none_iff a).mpr (runCommand_inv (s := { c.arch with busy := false }) ⟨rfl, hdv, herr⟩ run)

/-- Settles O52: by what the edge does: reset, a cycle of waiting, completion, acceptance, or nothing. -/
theorem everyTickKeepsTheClockedInvariant : Obligations.EveryTickKeepsTheClockedInvariant := by
  intro lat p c t hl h ht
  cases hr : p.rst with
  | true =>
    cases (tick_reset lat hr c).symm.trans ht
    exact resetClocked_inv c
  | false =>
    obtain ⟨a, _ | f⟩ := c
    · have ha : a.Inv := (clockedInv_none_iff a).mp h
      cases hv : p.cmdValid with
      | true =>
        cases (tick_accept lat hr hv ha.1).symm.trans ht
        exact acceptCommand_inv hl p.cmd ha
      | false =>
        cases (tick_idle lat hr hv a).symm.trans ht
        exact h
    · by_cases hf : f.left ≤ 1
      · exact completeCommand_inv h ((tick_complete lat hr a hf).symm.trans ht)
      · obtain ⟨hb, -, hdv, herr⟩ := h
        cases (tick_wait lat hr a (by omega)).symm.trans ht
        refine ⟨hb, ?_, hdv, herr⟩
        rintro g ⟨⟩
        show 1 ≤ f.left - 1
        omega

end Sys2Proof.Machine
end

section
/-!
PROOFS of the family 10_state.md: PHASE, ERR and ECAUSE, and the state words (R21, R25, R29, R30, R38).
-/

namespace Sys2Proof.Machine

/-- Settles O5: one case per cell of the table. -/
theorem phaseTransitionsFollowTable : Obligations.PhaseTransitionsFollowTable := by
  intro cmd s
  obtain ⟨t, run⟩ := runCommand_next cmd s
  refine ⟨t, run, ?_⟩
  simp only [← inSequence_iff, ← inSequence_eq_false_iff]
  cases runCommand_effect run with
  | init op => simp [op]
  | absorb op hp => simp [op, hp]
  | finalize op hp => simp [op, hp]
  | sequenceFault op hp => rcases op with op | op <;> simp [op, hp]
  | illegalFault op =>
    obtain ⟨h1, h2, h3⟩ := op
    simp [h1, h2, h3]

/-- What a reset leaves in the registers that have a reset value (R38), and so at the ports. -/
theorem resetAt_registers (n : Nat) (moves : List HostMove) (replies : List Reply) :
    let t := State.resetAt n moves replies
    t.phase = .idle ∧ t.dv = false ∧ t.busy = false ∧ t.err = false ∧ t.ecause = .none ∧
      statusWord t = 0x00#8 ∧ readDigest t = none :=
  ⟨rfl, rfl, rfl, rfl, rfl, statusWord_resetAt n moves replies, (readDigest_eq_none_iff _).mpr rfl⟩

/-- Settles O1: the first reset and every later one leave a `State.resetAt`. -/
theorem resetValuesOfRegisters : Obligations.ResetValuesOfRegisters :=
  ⟨resetAt_registers 0 [] [], fun _ hm => ⟨_, step_applyReset hm, resetAt_registers _ _ _⟩⟩

/-- R157: no command clears ERR or replaces a recorded cause. -/
theorem runCommand_keeps_err {cmd : Command} {s t : State} (run : runCommand cmd s = .next t) :
    (s.err = true → t.err = true) ∧ (s.ecause ≠ .none → t.ecause = s.ecause) := by
  rcases runCommand_faults_or_keeps_err run with ⟨c, -, rfl⟩ | ⟨he, hc, -⟩
  · exact ⟨fun _ => rfl, fun h => raiseFault_keeps_first_cause h c⟩
  · exact ⟨he.trans, fun _ => hc⟩

/-- R157: no step but a reset clears ERR or replaces a recorded cause. -/
theorem step_keeps_err {s t : State} (hs : step s = .next t) (hm : s.hostMoves.head? ≠ some .reset) :
    (s.err = true → t.err = true) ∧ (s.ecause ≠ .none → t.ecause = s.ecause) := by
  cases step_effect hs with
  | idle => exact ⟨id, fun _ => rfl⟩
  | command cmd _ _ _ run => exact runCommand_keeps_err (s := popMove s) run
  | held => exact ⟨id, fun _ => rfl⟩
  | readStatus => exact ⟨id, fun _ => rfl⟩
  | readDigest => exact ⟨id, fun _ => rfl⟩
  | reset h => exact absurd h hm

/-- Settles O9: a command records a fault by `raiseFault` or leaves ERR and ECAUSE alone, and no other move but a reset
touches them. -/
theorem errAndCauseAreSticky : Obligations.ErrAndCauseAreSticky := by
  refine ⟨?_, ?_, fun _ hm => ⟨_, step_applyReset hm, rfl, rfl⟩⟩
  · intro cmd s t run
    obtain ⟨keepsErr, keepsCause⟩ := runCommand_keeps_err run
    refine ⟨keepsErr, keepsCause, ?_⟩
    simp only [← inSequence_eq_false_iff]
    rcases runCommand_faults_or_keeps_err run with ⟨c, hc, rfl⟩ | ⟨he, hc, legal⟩
    · refine ⟨fun changed => ⟨?_, rfl⟩, fun _ => ⟨rfl, raiseFault_ecause_ne_none hc s⟩, fun _ noErr => ?_⟩
      · by_contra recorded
        exact changed (keepsCause recorded)
      · cases noErr
    · refine ⟨fun changed => absurd hc changed, fun faults => ?_, fun clear noErr => hc.trans (clear (he ▸ noErr))⟩
      refine absurd faults ?_
      rcases legal with op | ⟨op | op, hp⟩
      · simp [op]
      · simp [op, hp]
      · simp [op, hp]
  · intro s t hs hm err
    obtain ⟨keepsErr, keepsCause⟩ := step_keeps_err hs hm
    exact ⟨keepsErr err, keepsCause⟩

/-- Settles O18: V is written by the three commands that do not fault, and no other move but a reset touches it. -/
theorem stateWordsWrittenOnlyByCommands : Obligations.StateWordsWrittenOnlyByCommands := by
  intro s t hs hm
  refine ⟨fun cmd hcmd hb => ?_, fun noCommand => ?_⟩
  · have run : runCommand cmd (popMove s) = .next t := by simpa [step_command hcmd, hb] using hs
    simp only [← inSequence_iff, ← inSequence_eq_false_iff]
    cases runCommand_effect run with
    | init op => simp [op]
    | absorb op hp => simp [op, show inSequence s.phase = true from hp]
    | finalize op hp => simp [op, show inSequence s.phase = true from hp]
    | sequenceFault op hp => rcases op with op | op <;> simp [op, show inSequence s.phase = false from hp]
    | illegalFault op =>
      obtain ⟨h1, h2, h3⟩ := op
      simp [h1, h2, h3]
  · cases step_effect hs with
    | idle => rfl
    | command cmd _ h => exact absurd h (noCommand cmd)
    | held => rfl
    | readStatus => rfl
    | readDigest => rfl
    | reset h => exact absurd h hm

end Sys2Proof.Machine
end

section
/-!
PROOFS of the family 10_state.md: STATUS, DV and DIGEST (R26, R27, R31, R134).
-/

namespace Sys2Proof.Machine

section
variable (s : State)

/-- Bit `i` of STATUS, by the table of R31. -/
theorem getLsbD_statusWord (i : Nat) :
    (statusWord s).getLsbD i =
      if i < 2 then (phaseBits s.phase).getLsbD i else if i = 2 then s.busy else if i = 3 then s.dv
      else if i = 4 then s.err else (causeBits s.ecause).getLsbD (i - 5) := by
  show BitVec.getLsbD (w := 1 + 2 + 1 + 1 + 1 + 2)
    (0#1 ++ causeBits s.ecause ++ BitVec.ofBool s.err ++ BitVec.ofBool s.dv ++ BitVec.ofBool s.busy ++
      phaseBits s.phase) i = _
  simp only [BitVec.getLsbD_append]
  rcases Nat.lt_or_ge i 5 with flag | cause
  · interval_cases i <;> simp
  · obtain ⟨j, rfl⟩ := Nat.exists_eq_add_of_le' cause
    simpa [Nat.add_assoc] using fun set => Nat.le_of_lt_succ (BitVec.lt_of_getLsbD (x := causeBits s.ecause) set)

theorem statusWord_phase : (statusWord s).extractLsb' 0 2 = phaseBits s.phase := by
  apply BitVec.eq_of_getLsbD_eq
  intro i hi
  simp [getLsbD_statusWord, hi]

theorem statusWord_ecause : (statusWord s).extractLsb' 5 2 = causeBits s.ecause := by
  apply BitVec.eq_of_getLsbD_eq
  intro i hi
  rw [BitVec.getLsbD_extractLsb', getLsbD_statusWord, if_neg (by omega), if_neg (by omega), if_neg (by omega),
    if_neg (by omega), Nat.add_sub_cancel_left, decide_eq_true hi, Bool.true_and]

end

/-- Code 3 is reserved (R151). -/
theorem causeBits_ne_three (c : Cause) : causeBits c ≠ 3#2 := by
  cases c <;> decide

/-- Settles O27: field by field. -/
theorem statusWordLayout : Obligations.StatusWordLayout := by
  refine ⟨fun s => ⟨statusWord_phase s, getLsbD_statusWord s 2, getLsbD_statusWord s 3, getLsbD_statusWord s 4,
    statusWord_ecause s, ?_, ?_⟩, statusWord_resetAt 0 [] [], fun s rest hm => ?_⟩
  · rw [statusWord_ecause]
    exact causeBits_ne_three s.ecause
  · exact (getLsbD_statusWord s 7).trans (BitVec.getLsbD_of_ge _ 2 (by decide))
  · rw [step_readStatus (by simp [hm]), popMove_of_hostMoves hm, giveReply]

/-- Settles O29: one case per effect of a command. -/
theorem digestValidLifecycle : Obligations.DigestValidLifecycle := by
  refine ⟨fun cmd s t run => ?_, fun _ hm => ⟨_, step_applyReset hm, rfl⟩, fun s => (readDigest_eq_none_iff s).mpr⟩
  simp only [← inSequence_iff]
  cases runCommand_effect run with
  | init op => simp [op]
  | absorb op => simp [op]
  | finalize op hp => simp [op, hp]
  | sequenceFault op hp => rcases op with op | op <;> simp [op, hp]
  | illegalFault op =>
    obtain ⟨h1, -, h3⟩ := op
    simp [h1, h3]

/-- Settles O30: FINALIZE is the one effect of a command that writes DIGEST. -/
theorem digestWrittenOnlyByFinalize : Obligations.DigestWrittenOnlyByFinalize := by
  refine ⟨fun cmd s t run => ?_, fun s d hd => ?_⟩
  · cases runCommand_effect run with
    | init => exact .inl rfl
    | absorb => exact .inl rfl
    | finalize op hp => exact .inr ⟨op, (inSequence_iff _).mp hp, rfl, rfl⟩
    | sequenceFault => exact .inl rfl
    | illegalFault => exact .inl rfl
  · obtain ⟨hdv, hd⟩ := (readDigest_eq_some_iff s d).mp hd
    exact ⟨hdv, hd.symm⟩

/-- What `digest` shows depends on DV and DIGEST alone. -/
theorem readDigest_congr {s t : State} (hdv : t.dv = s.dv) (hd : t.digest = s.digest) :
    readDigest t = readDigest s := by
  rw [readDigest, readDigest, hdv, hd]

/-- In FINALIZED every command but INIT faults, so the digest port keeps its value (R132, R134). -/
theorem runCommand_keeps_digest {cmd : Command} {s t : State} (hp : s.phase = .finalized) (op : opField cmd ≠ 0x01#8)
    (run : runCommand cmd s = .next t) : readDigest t = readDigest s := by
  rcases runCommand_faults_or_keeps_err run with ⟨c, -, rfl⟩ | ⟨-, -, isInit | ⟨-, inSeq⟩⟩
  · exact readDigest_congr rfl rfl
  · exact absurd isInit op
  · simp [hp] at inSeq

/-- While DV = 1 the phase is FINALIZED, so a step that is no INIT and no reset leaves the digest port as it is. -/
theorem step_keeps_digest {s t : State} (inv : s.Inv) (hs : step s = .next t) (hm : s.hostMoves.head? ≠ some .reset)
    (noInit : ∀ cmd, s.hostMoves.head? = some (.command cmd) → opField cmd ≠ 0x01#8) (hdv : s.dv = true) :
    readDigest t = readDigest s := by
  obtain ⟨-, dvIff, -⟩ := inv
  cases step_effect hs with
  | idle => rfl
  | command cmd _ h _ run => exact runCommand_keeps_digest (s := popMove s) (dvIff.mp hdv) (noInit cmd h) run
  | held => rfl
  | readStatus => exact readDigest_congr rfl rfl
  | readDigest => exact readDigest_congr rfl rfl
  | reset h => exact absurd h hm

/-- Settles O31: the keeping clause is `step_keeps_digest`; the others read off one FINALIZE and one read. -/
theorem digestReadHasValueWhenValid : Obligations.DigestReadHasValueWhenValid := by
  refine ⟨fun s d => ?_, fun cmd s t hp op run => ?_, fun s t => step_keeps_digest, fun s rest hm => ?_⟩
  · rw [readDigest_eq_some_iff, eq_comm (a := d)]
  · rw [← inSequence_iff] at hp
    rw [readDigest_eq_some_iff]
    cases runCommand_effect run with
    | finalize => exact ⟨rfl, rfl⟩
    | init op' => simp [op] at op'
    | absorb op' => simp [op] at op'
    | sequenceFault _ hp' => simp [hp] at hp'
    | illegalFault op' => simp [op] at op'
  · rw [step_readDigest (by simp [hm]), popMove_of_hostMoves hm, giveReply]
    exact ⟨fun hdv => by simp [hdv], fun hdv => by simp [hdv]⟩

end Sys2Proof.Machine
end

section
/-!
PROOFS of the family 10_state.md: what the ports never show (R22, R23, R27, R133).
-/

namespace Sys2Proof.Machine

section
variable {s t : State}

theorem popMove_samePorts (h : s.SamePorts t) : (popMove s).SamePorts (popMove t) := by
  obtain ⟨hp, hdv, hb, he, hc, hm, hr, hv, hd⟩ := h
  exact ⟨hp, hdv, hb, he, hc, congrArg List.tail hm, hr, hv, hd⟩

theorem giveReply_samePorts (r : Reply) (h : s.SamePorts t) : (giveReply r s).SamePorts (giveReply r t) := by
  obtain ⟨hp, hdv, hb, he, hc, hm, hr, hv, hd⟩ := h
  exact ⟨hp, hdv, hb, he, hc, hm, congrArg (· ++ [r]) hr, hv, hd⟩

theorem raiseFault_samePorts (c : Cause) (h : s.SamePorts t) : (raiseFault c s).SamePorts (raiseFault c t) := by
  obtain ⟨hp, hdv, hb, he, hc, hm, hr, hv, hd⟩ := h
  exact ⟨hp, hdv, hb, rfl, by simp [hc], hm, hr, hv, hd⟩

/-- Two resets draw different free values, which no port shows: PHASE is IDLE and DV is 0. -/
theorem applyReset_samePorts (h : s.SamePorts t) : (applyReset s).SamePorts (applyReset t) := by
  obtain ⟨-, -, -, -, -, hm, hr, -, -⟩ := h
  exact ⟨rfl, rfl, rfl, rfl, rfl, hm, hr, by simp, by simp⟩

theorem statusWord_of_samePorts (h : s.SamePorts t) : statusWord s = statusWord t := by
  obtain ⟨hp, hdv, hb, he, hc, -⟩ := h
  rw [statusWord, statusWord, hp, hdv, hb, he, hc]

theorem readDigest_of_samePorts (h : s.SamePorts t) : readDigest s = readDigest t := by
  obtain ⟨-, hdv, -, -, -, -, -, -, hd⟩ := h
  rw [readDigest, readDigest, ← hdv]
  exact ite_congr rfl (fun valid => congrArg some (hd valid)) (fun _ => rfl)

theorem result_of_samePorts (h : s.SamePorts t) : s.result = t.result := by
  have digest : (if s.dv then some s.digest else none) = if t.dv then some t.digest else none :=
    readDigest_of_samePorts h
  obtain ⟨hp, -, -, he, hc, -⟩ := h
  rw [State.result, State.result, digest, hp, he, hc]

/-- The commands that read V run only in the phases in which the two states have the same V. -/
theorem exec_samePorts (i : Instr) (h : s.SamePorts t) :
    ∃ s' t', exec i s = .next s' ∧ exec i t = .next t' ∧ s'.SamePorts t' := by
  have fault := raiseFault_samePorts .sequence h
  obtain ⟨hp, hdv, hb, he, hc, hm, hr, hv, hd⟩ := h
  cases i with
  | init k0 k1 => exact ⟨_, _, execInit_eq k0 k1 s, execInit_eq k0 k1 t,
      rfl, rfl, hb, he, hc, hm, hr, fun _ => rfl, by simp⟩
  | absorb m =>
    rcases phase_cases s.phase with inSeq | outSeq
    · exact ⟨_, _, execAbsorb_inSequence inSeq m, execAbsorb_inSequence (hp ▸ inSeq) m,
        rfl, hdv, hb, he, hc, hm, hr, fun _ => congrArg (absorbLanes m) (hv inSeq), hd⟩
    · exact ⟨_, _, execAbsorb_outOfSequence outSeq m, execAbsorb_outOfSequence (hp ▸ outSeq) m, fault⟩
  | finalize =>
    rcases phase_cases s.phase with inSeq | outSeq
    · exact ⟨_, _, execFinalize_inSequence inSeq, execFinalize_inSequence (hp ▸ inSeq), rfl, rfl, hb, he, hc, hm, hr,
        fun _ => congrArg finalLanes (hv inSeq), fun _ => congrArg (digestFold ∘ finalLanes) (hv inSeq)⟩
    · exact ⟨_, _, execFinalize_outOfSequence outSeq, execFinalize_outOfSequence (hp ▸ outSeq), fault⟩

theorem runCommand_samePorts (cmd : Command) (h : s.SamePorts t) :
    ∃ s' t', runCommand cmd s = .next s' ∧ runCommand cmd t = .next t' ∧ s'.SamePorts t' := by
  unfold runCommand
  cases decode cmd with
  | command i => exact exec_samePorts i h
  | illegal op => exact ⟨_, _, rfl, rfl, raiseFault_samePorts .illegalCmd h⟩

/-- Two states alike at the ports make steps alike, or both stop at a digest read without a value. -/
theorem step_samePorts (h : s.SamePorts t) :
    (∃ s' t', step s = .next s' ∧ step t = .next t' ∧ s'.SamePorts t') ∨
      (step s = .fault .digestNotValid ∧ step t = .fault .digestNotValid) := by
  have popped := popMove_samePorts h
  have status := statusWord_of_samePorts h
  have same := h
  obtain ⟨-, hdv, hb, -, -, hm, -, -, hd⟩ := h
  rcases hs : s.hostMoves.head? with _ | m <;> have ht := hs <;> rw [hm] at ht
  · exact .inl ⟨s, t, step_idle hs, step_idle ht, same⟩
  cases m with
  | command cmd =>
    rw [step_command hs, step_command ht, ← hb]
    cases s.busy with
    | true => exact .inl ⟨s, t, rfl, rfl, same⟩
    | false => exact .inl (runCommand_samePorts cmd popped)
  | readStatus =>
    rw [step_readStatus hs, step_readStatus ht, ← status]
    exact .inl ⟨_, _, rfl, rfl, giveReply_samePorts _ popped⟩
  | readDigest =>
    rw [step_readDigest hs, step_readDigest ht, ← hdv]
    cases valid : s.dv with
    | true =>
      rw [← hd valid]
      exact .inl ⟨_, _, rfl, rfl, giveReply_samePorts _ popped⟩
    | false => exact .inr ⟨rfl, rfl⟩
  | reset => exact .inl ⟨_, _, step_applyReset hs, step_applyReset ht, applyReset_samePorts popped⟩

end

/-- Settles O54: every operation of a step maps states alike at the ports to such states. -/
theorem unreadableBitsAreUnobservable : Obligations.UnreadableBitsAreUnobservable :=
  fun _ _ h => ⟨statusWord_of_samePorts h, readDigest_of_samePorts h, result_of_samePorts h, step_samePorts h⟩

end Sys2Proof.Machine
end

section
/-!
PROOFS of the family 10_state.md: several instances (R39, R164).
-/

namespace Sys2Proof.Machine

theorem stepInstance_none {k : Nat} {engines : List State} (h : engines[k]? = none) :
    stepInstance k engines = .next engines := by
  rw [stepInstance, h]

theorem stepInstance_next {k : Nat} {engines : List State} {s t : State} (h : engines[k]? = some s)
    (hs : step s = .next t) : stepInstance k engines = .next (engines.set k t) := by
  simp [stepInstance, h, hs]

/-- A step of the list does nothing where there is no engine, and else replaces the one state by its next state. -/
theorem stepInstance_cases {k : Nat} {engines after : List State} (h : stepInstance k engines = .next after) :
    (engines[k]? = none ∧ after = engines) ∨
    (∃ s t, engines[k]? = some s ∧ step s = .next t ∧ after = engines.set k t) := by
  rcases hk : engines[k]? with _ | s
  · cases (stepInstance_none hk).symm.trans h
    exact .inl ⟨rfl, rfl⟩
  · cases hs : step s with
    | next t =>
      cases (stepInstance_next hk hs).symm.trans h
      exact .inr ⟨s, t, rfl, hs, rfl⟩
    | fault r => simp [stepInstance, hk, hs] at h
    | refused r => simp [stepInstance, hk, hs] at h

theorem stepInstance_keeps_others {k j : Nat} {engines after : List State} (h : stepInstance k engines = .next after)
    (hj : j ≠ k) : after[j]? = engines[j]? := by
  rcases stepInstance_cases h with ⟨-, rfl⟩ | ⟨s, t, -, -, rfl⟩
  · rfl
  · exact List.getElem?_set_ne hj.symm

/-- Settles O55: each step sees its own engine as it was, and the two replacements are at different places. -/
theorem instancesAreIndependent : Obligations.InstancesAreIndependent := by
  refine ⟨fun k j engines after => stepInstance_keeps_others, fun k j engines x y hkj hx hy => ?_⟩
  have jInX : x[j]? = engines[j]? := stepInstance_keeps_others hx hkj.symm
  have kInY : y[k]? = engines[k]? := stepInstance_keeps_others hy hkj
  rcases stepInstance_cases hx with ⟨hk, rfl⟩ | ⟨s, s', hk, hs, rfl⟩
  · exact ⟨y, hy, stepInstance_none (kInY.trans hk)⟩
  rcases stepInstance_cases hy with ⟨hj, rfl⟩ | ⟨u, u', hj, hu, rfl⟩
  · exact ⟨_, stepInstance_none (jInX.trans hj), hx⟩
  · refine ⟨(engines.set k s').set j u', stepInstance_next (jInX.trans hj) hu, ?_⟩
    rw [List.set_comm _ _ hkj]
    exact stepInstance_next (kInY.trans hk) hs

end Sys2Proof.Machine
end

section
/-!
PROOFS of the family 20_memory.md: a host move with its step, and two port reads in a row (R55, R57, R197).
-/

namespace Sys2Proof.Machine

section
variable {s : State} {rest : List HostMove}

/-- A command that the engine is ready for runs on the state with that move taken off (R57, R197). -/
theorem step_command_of_ready {cmd : Command} (hb : s.busy = false) (hm : s.hostMoves = .command cmd :: rest) :
    step s = runCommand cmd { s with hostMoves := rest } := by
  rw [step_command (cmd := cmd) (by simp [hm]), popMove_of_hostMoves hm, hb]
  rfl

theorem runCommand_of_decode_command {cmd : Command} {i : Instr} (hd : decode cmd = .command i) (s : State) :
    runCommand cmd s = exec i s := by
  rw [runCommand, hd]

theorem runCommand_of_decode_illegal {cmd : Command} {op : Byte} (hd : decode cmd = .illegal op) (s : State) :
    runCommand cmd s = .next (raiseFault .illegalCmd s) := by
  rw [runCommand, hd]

theorem step_readStatus_of_hostMoves (hm : s.hostMoves = .readStatus :: rest) :
    step s = .next { s with hostMoves := rest, replies := s.replies ++ [.status (statusWord s)] } := by
  rw [step_readStatus (by simp [hm]), popMove_of_hostMoves hm, giveReply]

theorem step_readDigest_of_hostMoves (hdv : s.dv = true) (hm : s.hostMoves = .readDigest :: rest) :
    step s = .next { s with hostMoves := rest, replies := s.replies ++ [.digest s.digest] } := by
  rw [step_readDigest (by simp [hm]), popMove_of_hostMoves hm, if_pos hdv, giveReply]

end

/-- Settles O47: the step accepts the command, which runs as what it decodes to. -/
theorem stepRunsDecodedCommand : Obligations.StepRunsDecodedCommand := by
  intro s cmd rest hb hm
  rw [step_command_of_ready hb hm]
  exact ⟨fun i hd _ => runCommand_of_decode_command hd _, fun op hd => runCommand_of_decode_illegal hd _⟩

/-- Settles O28: the first read changes no register, so the second gives the same word. -/
theorem portReadsAreRepeatable : Obligations.PortReadsAreRepeatable := by
  constructor
  · intro s rest hm
    rw [runSteps_succ 1 (step_readStatus_of_hostMoves hm), runSteps_succ 0 (step_readStatus_of_hostMoves rfl),
      runSteps_zero, List.append_assoc]
    rfl
  · intro s rest hdv hm
    rw [runSteps_succ 1 (step_readDigest_of_hostMoves hdv hm),
      runSteps_succ 0 (step_readDigest_of_hostMoves (by exact hdv) rfl), runSteps_zero, List.append_assoc]
    rfl

end Sys2Proof.Machine
end

section
/-!
PROOFS of the family 20_memory.md: which bytes the driver reads and how many packets it gives (R62 to R64, R66).
-/

namespace Sys2Proof.Machine

/-- How many tail packets a padding mode gives (R62, R66). -/
def tailCount (mode : PadMode) (len : Nat) : Nat :=
  match mode with
  | .overread => if len % 8 = 0 then 0 else 1
  | .zero => if len % 8 = 0 then 0 else 1
  | .zeroLen => 1

/-- How many bytes after the last full packet a padding mode reads (R63, R64). -/
def tailReads (mode : PadMode) (len : Nat) : Nat :=
  match mode with
  | .overread => 8 * tailCount .overread len
  | .zero => len % 8
  | .zeroLen => len % 8

section
variable {mem : List Host.Cell}

/-- A read of `m + n` bytes succeeds exactly when its two parts do. -/
theorem hostBytes_add_isSome (addr m n : Nat) :
    (hostBytes mem addr (m + n)).isSome = true ↔
      (hostBytes mem addr m).isSome = true ∧ (hostBytes mem (addr + m) n).isSome = true := by
  simp only [hostBytes_isSome, Nat.add_assoc]
  constructor
  · exact fun all => ⟨fun i hi => all i (by omega), fun i hi => all (m + i) (by omega)⟩
  · rintro ⟨low, high⟩ i hi
    rcases Nat.lt_or_ge i m with below | above
    · exact low i below
    · obtain ⟨j, rfl⟩ := Nat.exists_eq_add_of_le above
      exact high j (by omega)

theorem hostPacket_isSome (addr : Nat) :
    (hostPacket mem addr).isSome = true ↔ (hostBytes mem addr 8).isSome = true := by
  rw [hostPacket]
  cases hostBytes mem addr 8 <;> simp

theorem hostPackets_succ_isSome (addr n : Nat) :
    (hostPackets mem addr (n + 1)).isSome = true ↔
      (hostPacket mem addr).isSome = true ∧ (hostPackets mem (addr + 8) n).isSome = true := by
  rw [hostPackets]
  cases hostPacket mem addr <;> cases hostPackets mem (addr + 8) n <;> simp

/-- The strides of `n` packets read `8 * n` bytes without a gap (R62). -/
theorem hostPackets_isSome (addr n : Nat) :
    (hostPackets mem addr n).isSome = true ↔ (hostBytes mem addr (8 * n)).isSome = true := by
  induction n generalizing addr with
  | zero => simp [hostPackets, hostBytes]
  | succ k ih =>
    rw [hostPackets_succ_isSome, hostPacket_isSome, ih, Nat.mul_succ, Nat.add_comm (8 * k), hostBytes_add_isSome]

/-- Under over-read the tail is one more stride, or none where the message fills its packets (R63). -/
theorem tailPackets_overread (base len : Nat) :
    tailPackets .overread mem base len = hostPackets mem (base + 8 * (len / 8)) (tailCount .overread len) := by
  by_cases full : len % 8 = 0 <;> simp [tailPackets, tailCount, full, hostPackets]

theorem tailPackets_length {mode : PadMode} {base len : Nat} {tail : List Word}
    (h : tailPackets mode mem base len = some tail) : tail.length = tailCount mode len := by
  cases mode with
  | overread => exact hostPackets_length ((tailPackets_overread base len).symm.trans h)
  | zero =>
    by_cases full : len % 8 = 0
    · obtain rfl : [] = tail := by simpa [tailPackets, full] using h
      simp [tailCount, full]
    · simp only [tailPackets, full, if_false] at h
      split at h <;> cases h
      simp [tailCount, full]
  | zeroLen =>
    simp only [tailPackets] at h
    split at h <;> cases h
    rfl

theorem tailPackets_isSome (mode : PadMode) (base len : Nat) :
    (tailPackets mode mem base len).isSome = true ↔
      (hostBytes mem (base + 8 * (len / 8)) (tailReads mode len)).isSome = true := by
  cases mode with
  | overread => rw [tailPackets_overread, hostPackets_isSome, tailReads]
  | zero =>
    by_cases full : len % 8 = 0
    · simp [tailPackets, tailReads, full, hostBytes]
    · simp only [tailPackets, tailReads, full, if_false]
      cases hostBytes mem (base + 8 * (len / 8)) (len % 8) <;> simp
  | zeroLen =>
    simp only [tailPackets, tailReads]
    cases hostBytes mem (base + 8 * (len / 8)) (len % 8) <;> simp

theorem driverPackets_eq_some_iff {mode : PadMode} {base len : Nat} {packets : List Word} :
    driverPackets mode mem base len = some packets ↔
      ∃ full tail, hostPackets mem base (len / 8) = some full ∧ tailPackets mode mem base len = some tail ∧
        full ++ tail = packets := by
  rw [driverPackets]
  cases hostPackets mem base (len / 8) <;> cases tailPackets mode mem base len <;> simp

/-- The packets of a message: one for every 8 bytes, and those of the tail. -/
theorem driverPackets_length {mode : PadMode} {base len : Nat} {packets : List Word}
    (h : driverPackets mode mem base len = some packets) : packets.length = len / 8 + tailCount mode len := by
  obtain ⟨full, tail, hfull, htail, rfl⟩ := driverPackets_eq_some_iff.mp h
  rw [List.length_append, hostPackets_length hfull, tailPackets_length htail]

/-- The driver reads the full packets' bytes and, right after them, those of the tail. -/
theorem driverPackets_isSome {mode : PadMode} {len bytes : Nat} (base : Nat)
    (h : 8 * (len / 8) + tailReads mode len = bytes) :
    (driverPackets mode mem base len).isSome = true ↔ ∀ i < bytes, (hostByte mem (base + i)).isSome = true := by
  rw [← hostBytes_isSome, ← h, hostBytes_add_isSome, ← hostPackets_isSome, ← tailPackets_isSome, driverPackets]
  cases hostPackets mem base (len / 8) <;> cases tailPackets mode mem base len <;> simp

end

/-- Rounding `len / 8` up: one more packet exactly when a remainder is left. -/
theorem div_add_ite_eq_ceil (len : Nat) : len / 8 + (if len % 8 = 0 then 0 else 1) = (len + 7) / 8 := by
  split <;> omega

/-- Settles O56: the full packets and the tail packets of each mode. -/
theorem driverPacketCounts : Obligations.DriverPacketCounts := by
  intro mem base len packets
  exact ⟨fun h => (driverPackets_length h).trans (div_add_ite_eq_ceil len),
    fun h => (driverPackets_length h).trans (div_add_ite_eq_ceil len), driverPackets_length⟩

/-- Settles O57: the bytes each mode reads are those of the message, filled up to whole packets under over-read. -/
theorem driverNeedsReadableBytes : Obligations.DriverNeedsReadableBytes := by
  intro mem base len
  have overread : 8 * (len / 8) + tailReads .overread len = (len + 7) / 8 * 8 := by
    simp only [tailReads, tailCount]
    split <;> omega
  exact ⟨driverPackets_isSome base overread, driverPackets_isSome base (Nat.div_add_mod len 8),
    driverPackets_isSome base (Nat.div_add_mod len 8)⟩

end Sys2Proof.Machine
end

section
/-!
PROOFS of the family 20_memory.md: the run of one hash computation's commands (R62, R63, R65, R136).
-/

namespace Sys2Proof.Machine

/-- The engine decodes what the assembler encodes (R80, R81). -/
theorem decode_encode (i : Instr) : decode (encode i) = .command i := by
  cases i with
  | init key0 key1 =>
    obtain ⟨-, op, a, b⟩ := Laws.EncodedFields.init key0 key1
    rw [decode_init op, a, b]
    rfl
  | absorb packet =>
    obtain ⟨-, op, a, -⟩ := Laws.EncodedFields.absorb packet
    rw [decode_absorb op, a]
    rfl
  | finalize =>
    obtain ⟨-, op, -, -⟩ := Laws.EncodedFields.finalize
    exact decode_finalize op

@[simp] theorem presentAll_length (commands : List Instr) : (presentAll commands).length = commands.length :=
  List.length_map _

@[simp] theorem hashCommands_length (key0 key1 : Word) (packets : List Word) :
    (hashCommands key0 key1 packets).length = packets.length + 2 := by
  simp [hashCommands]

theorem presentAll_hashCommands (key0 key1 : Word) (packets : List Word) :
    presentAll (hashCommands key0 key1 packets) = .command (encode (.init key0 key1)) ::
      (presentAll (packets.map .absorb) ++ [.command (encode .finalize)]) := by
  simp [hashCommands, presentAll]

section
variable {s : State} {rest : List HostMove}

/-- A presented instruction that the engine is ready for is executed. -/
theorem step_encode {i : Instr} (hb : s.busy = false) (hm : s.hostMoves = .command (encode i) :: rest) :
    step s = exec i { s with hostMoves := rest } := by
  rw [step_command_of_ready hb hm, runCommand_of_decode_command (decode_encode i)]

theorem step_init {key0 key1 : Word} (hb : s.busy = false)
    (hm : s.hostMoves = .command (encode (.init key0 key1)) :: rest) :
    step s = .next
      { s with v := initLanes key0 key1, phase := .initialized, dv := false, hostMoves := rest } := by
  rw [step_encode hb hm, exec, execInit_eq]

theorem step_absorb {packet : Word} (hb : s.busy = false) (hp : inSequence s.phase = true)
    (hm : s.hostMoves = .command (encode (.absorb packet)) :: rest) :
    step s = .next { s with v := absorbLanes packet s.v, phase := .absorbing, hostMoves := rest } := by
  rw [step_encode hb hm]
  exact execAbsorb_inSequence (s := { s with hostMoves := rest }) hp packet

theorem step_finalize (hb : s.busy = false) (hp : inSequence s.phase = true)
    (hm : s.hostMoves = .command (encode .finalize) :: rest) :
    step s = .next { s with
      v := finalLanes s.v, digest := digestFold (finalLanes s.v), dv := true, phase := .finalized
      hostMoves := rest } := by
  rw [step_encode hb hm]
  exact execFinalize_inSequence (s := { s with hostMoves := rest }) hp

/-- A sequence of ABSORB commands in sequence mixes in its packets one after the other (R117). -/
theorem runSteps_absorbs {packets : List Word} (hb : s.busy = false) (hp : inSequence s.phase = true)
    (hm : s.hostMoves = presentAll (packets.map .absorb) ++ rest) :
    runSteps packets.length s = .next { s with
      v := packets.foldl (fun l m => absorbLanes m l) s.v
      phase := if packets = [] then s.phase else .absorbing
      hostMoves := rest } := by
  induction packets generalizing s with
  | nil =>
    obtain rfl : s.hostMoves = rest := hm
    rfl
  | cons m ms ih =>
    rw [List.length_cons, runSteps_succ _ (step_absorb hb hp hm), ih (by exact hb) rfl rfl]
    simp

/-- The commands of one hash computation leave the keyed hash as the digest and ERR, ECAUSE and the replies as they
were, whatever the phase and the registers were before (R136). -/
theorem runSteps_hashCommands {key0 key1 : Word} {packets : List Word} (hb : s.busy = false)
    (hm : s.hostMoves = presentAll (hashCommands key0 key1 packets) ++ rest) :
    runSteps (packets.length + 2) s = .next { s with
      v := finalLanes (packets.foldl (fun l m => absorbLanes m l) (initLanes key0 key1))
      digest := keyedHash key0 key1 packets, dv := true, phase := .finalized, hostMoves := rest } := by
  have moves : s.hostMoves = .command (encode (.init key0 key1)) ::
      (presentAll (packets.map .absorb) ++ .command (encode .finalize) :: rest) := by
    simp [hm, presentAll_hashCommands]
  rw [runSteps_succ _ (step_init hb moves), runSteps_add 1 (runSteps_absorbs (by exact hb) rfl rfl),
    runSteps_succ 0 (step_finalize (by exact hb) (by dsimp only; split <;> rfl) rfl), runSteps_zero]
  rfl

end

/-- Without a remainder neither over-read nor zero padding has a tail (R63). -/
theorem driverPackets_overread_eq_zero (mem : List Host.Cell) (base : Nat) {len : Nat} (full : len % 8 = 0) :
    driverPackets .overread mem base len = driverPackets .zero mem base len := by
  simp only [driverPackets, tailPackets, full, if_true]

theorem driverMoves_of_packets {mode : PadMode} {mem : List Host.Cell} {base len : Nat} {packets : List Word}
    (key0 key1 : Word) (h : driverPackets mode mem base len = some packets) :
    driverMoves mode key0 key1 mem base len = some (presentAll (hashCommands key0 key1 packets)) := by
  rw [driverMoves, h]

/-- Settles O58: the driver's moves are the commands of one hash computation over its packets. -/
theorem driverRunLeavesKeyedHash : Obligations.DriverRunLeavesKeyedHash := by
  refine ⟨fun mem base len => driverPackets_overread_eq_zero mem base, ?_⟩
  intro mode mem base len key0 key1 packets moves rest s hb hpackets hmoves hm
  obtain rfl : presentAll (hashCommands key0 key1 packets) = moves :=
    Option.some.inj ((driverMoves_of_packets key0 key1 hpackets).symm.trans hmoves)
  rw [presentAll_length, hashCommands_length]
  exact ⟨_, runSteps_hashCommands hb hm, (readDigest_eq_some_iff _ _).mpr ⟨rfl, rfl⟩, rfl, rfl⟩

end Sys2Proof.Machine
end

section
/-!
PROOFS of the family 30_encoding.md: the fields of a command word, the decoder and the encoder (R72, R77, R80, R81).
-/

namespace Sys2Proof.Machine

/-- Settles O39: the encoding holds opcode and operands in its fields, and the decoder reads them from there. -/
theorem decodeOfEncodeIsIdentity : Obligations.DecodeOfEncodeIsIdentity :=
  fun i _ => decode_encode i

/-- A command is its three fields, packed: each field begins where the one below it ends (R72). -/
theorem packCommand_fields (cmd : Command) : packCommand (opField cmd) (aField cmd) (bField cmd) = cmd := by
  have upper : bField cmd ++ aField cmd = cmd.extractLsb' 8 128 :=
    BitVec.extractLsb'_append_extractLsb'_eq_extractLsb' rfl
  have whole : cmd.extractLsb' 8 128 ++ opField cmd = cmd.extractLsb' 0 136 :=
    BitVec.extractLsb'_append_extractLsb'_eq_extractLsb' rfl
  rw [packCommand, upper, whole, BitVec.extractLsb'_eq_self]

/-- Each bit of a command stands in the one field whose range it is in (R72). -/
theorem getLsbD_by_field (cmd : Command) (i : Nat) :
    cmd.getLsbD i =
      if i < 8 then (opField cmd).getLsbD i
      else if i < 72 then (aField cmd).getLsbD (i - 8) else (bField cmd).getLsbD (i - 72) := by
  rw [← getLsbD_packCommand, packCommand_fields]

/-- Settles O38: unpacking and packing are inverse to each other, and each bit is in one field's range. -/
theorem fieldsMakeUpTheCommand : Obligations.FieldsMakeUpTheCommand := by
  refine ⟨fun cmd => (packCommand_fields cmd).symm, fun op a b cmd => ⟨?_, ?_⟩, fun cmd i => ⟨?_, ?_, ?_⟩⟩
  · rintro rfl
    exact ⟨opField_packCommand op a b, aField_packCommand op a b, bField_packCommand op a b⟩
  · rintro ⟨rfl, rfl, rfl⟩
    exact (packCommand_fields cmd).symm
  · intro op
    rw [getLsbD_by_field, if_pos op]
  · intro low high
    rw [getLsbD_by_field, if_neg (by omega), if_pos high]
  · intro low _
    rw [getLsbD_by_field, if_neg (by omega), if_neg (by omega)]

/-- Words that decode to the same command act alike (R80). -/
theorem runCommand_eq_of_decode {cmd cmd' : Command} {i : Instr} (h : decode cmd = .command i)
    (h' : decode cmd' = .command i) (s : State) : runCommand cmd s = runCommand cmd' s := by
  rw [runCommand_of_decode_command h, runCommand_of_decode_command h']

/-- The rows of R73 that decode to a command, each with the operands it takes from the word (R80). -/
theorem decode_command_cases {cmd : Command} {i : Instr} (h : decode cmd = .command i) :
    (opField cmd = 0x01#8 ∧ i = .init (aField cmd) (bField cmd)) ∨
    (opField cmd = 0x02#8 ∧ i = .absorb (aField cmd)) ∨ (opField cmd = 0x03#8 ∧ i = .finalize) := by
  rcases opcode_cases cmd with op | op | op | ⟨h1, h2, h3⟩
  · cases (decode_init op).symm.trans h
    exact .inl ⟨op, rfl⟩
  · cases (decode_absorb op).symm.trans h
    exact .inr (.inl ⟨op, rfl⟩)
  · cases (decode_finalize op).symm.trans h
    exact .inr (.inr ⟨op, rfl⟩)
  · cases (decode_illegal h1 h2 h3).symm.trans h

/-- Settles O40: the word and the encoding decode to the same command, and they agree in OP and in the fields it uses. -/
theorem encodingIsCanonical : Obligations.EncodingIsCanonical := by
  intro cmd i h
  refine ⟨runCommand_eq_of_decode (decode_encode i) h, ?_⟩
  rcases decode_command_cases h with ⟨op, rfl⟩ | ⟨op, rfl⟩ | ⟨op, rfl⟩
  · calc packCommand 0x01#8 (aField cmd) (bField cmd)
      _ = packCommand (opField cmd) (aField cmd) (bField cmd) := by rw [op]
      _ = cmd := packCommand_fields cmd
  · rw [op]
    rfl
  · rw [op]
    rfl

/-- Settles O37: the decoder's definition, with each field read as the bits R72 gives it. -/
theorem decodingIsTotal : Obligations.DecodingIsTotal :=
  fun _ => rfl

section
variable (a b : Word)

theorem decode_packCommand_init : decode (packCommand 0x01#8 a b) = .command (.init a b) := by
  rw [decode_init (opField_packCommand _ a b), aField_packCommand, bField_packCommand]

theorem decode_packCommand_absorb : decode (packCommand 0x02#8 a b) = .command (.absorb a) := by
  rw [decode_absorb (opField_packCommand _ a b), aField_packCommand]

theorem decode_packCommand_finalize : decode (packCommand 0x03#8 a b) = .command .finalize :=
  decode_finalize (opField_packCommand _ a b)

end

/-- Settles O41: what a packed word decodes to does not mention the fields its format ignores. -/
theorem unusedFieldsAreIgnored : Obligations.UnusedFieldsAreIgnored :=
  fun a b a' b' s => ⟨decode_packCommand_init a b, decode_packCommand_absorb a b,
    runCommand_eq_of_decode (decode_packCommand_absorb a b) (decode_packCommand_absorb a b') s,
    runCommand_eq_of_decode (decode_packCommand_finalize a b) (decode_packCommand_finalize a' b') s⟩

end Sys2Proof.Machine
end

section
/-!
PROOFS of the family 30_encoding.md: the assembler forms and the pseudo-commands (R81 to R83).
-/

namespace Sys2Proof.Machine

theorem literalFits_iff (width n : Nat) : literalFits width n = true ↔ n < 2 ^ width := by
  rw [literalFits, decide_eq_true_iff]

/-- A line of literals in range is assembled; a line with one out of range is refused (R81). -/
theorem assembleLine_eq_ite {l : AsmLine} {fits : Prop} [Decidable fits] (h : l.wf = true ↔ fits) :
    assembleLine l = if fits then some (asmWord l) else none :=
  if_congr h rfl rfl

section
variable (k0 k1 m op a b : Nat)

theorem asmLine_init_wf_iff :
    (AsmLine.init k0 k1).wf = true ↔ k0 < 18446744073709551616 ∧ k1 < 18446744073709551616 := by
  simp only [AsmLine.wf, Bool.and_eq_true, literalFits_iff]
  rfl

theorem asmLine_absorb_wf_iff : (AsmLine.absorb m).wf = true ↔ m < 18446744073709551616 :=
  literalFits_iff 64 m

theorem asmLine_raw_wf_iff :
    (AsmLine.raw op a b).wf = true ↔
      (op < 256 ∧ a < 18446744073709551616) ∧ b < 18446744073709551616 := by
  simp only [AsmLine.wf, Bool.and_eq_true, literalFits_iff]
  rfl

end

/-- Settles O43: a form assembles exactly when its literals are in range, and then to the command with those operands. -/
theorem assemblerEncodesOrRefuses : Obligations.AssemblerEncodesOrRefuses := by
  refine ⟨fun k0 k1 => assembleLine_eq_ite (asmLine_init_wf_iff k0 k1),
    fun m => assembleLine_eq_ite (asmLine_absorb_wf_iff m), rfl, fun op a b => ⟨fun hop ha hb => ?_, fun tooWide => ?_⟩⟩
  · refine ⟨_, (assembleLine_eq_ite (asmLine_raw_wf_iff op a b)).trans (if_pos ⟨⟨hop, ha⟩, hb⟩), ?_, ?_, ?_⟩
    · rw [asmWord, opField_packCommand, BitVec.toNat_ofNat, Nat.mod_eq_of_lt hop]
    · rw [asmWord, aField_packCommand, BitVec.toNat_ofNat, Nat.mod_eq_of_lt ha]
    · rw [asmWord, bField_packCommand, BitVec.toNat_ofNat, Nat.mod_eq_of_lt hb]
  · exact (assembleLine_eq_ite (asmLine_raw_wf_iff op a b)).trans (if_neg (by omega))

/-- Settles O42: every word is written out, so both directions are evaluated. -/
theorem workedEncodings : Obligations.WorkedEncodings := by
  unfold Obligations.WorkedEncodings
  decide

/-- The assembler line of an instruction, its operands written as literals (R81). -/
def asmLineOf (i : Instr) : AsmLine :=
  match i with
  | .init key0 key1 => .init key0.toNat key1.toNat
  | .absorb packet => .absorb packet.toNat
  | .finalize => .finalize

theorem literalFits_toNat {width : Nat} (x : BitVec width) : literalFits width x.toNat = true :=
  (literalFits_iff width x.toNat).mpr x.isLt

theorem asmLineOf_wf (i : Instr) : (asmLineOf i).wf = true := by
  cases i <;> simp [asmLineOf, AsmLine.wf, literalFits_toNat]

theorem asmWord_asmLineOf (i : Instr) : asmWord (asmLineOf i) = encode i := by
  cases i <;> simp [asmLineOf, asmWord, encode, Instr.opcode, Instr.operandA, Instr.operandB]

/-- Every instruction can be assembled, to its encoding (R81). -/
theorem assembleLine_asmLineOf (i : Instr) : assembleLine (asmLineOf i) = some (encode i) := by
  rw [assembleLine, if_pos (asmLineOf_wf i), asmWord_asmLineOf]

/-- The lines of a command sequence assemble to its encodings, in order. -/
theorem assemble_asmLineOf (is : List Instr) : assemble (is.map asmLineOf) = some (is.map encode) := by
  induction is with
  | nil => rfl
  | cons i is ih => simp [assemble, assembleLine_asmLineOf, ih]

theorem asmLineOf_hashCommands (key0 key1 : Word) (packets : List Word) :
    (hashCommands key0 key1 packets).map asmLineOf =
      .init key0.toNat key1.toNat :: packets.map (fun w => .absorb w.toNat) ++ [.finalize] := by
  simp [hashCommands, asmLineOf, Function.comp_def]

section
variable (mem : List Host.Cell)

/-- REDUCE stands for the tree reducer's commands (R82). -/
theorem expandLine_reduce (k0 k1 : Word) (hashes : List Word) :
    expandLine mem (.reduce k0.toNat k1.toNat (hashes.map BitVec.toNat)) =
      some ((hashCommands k0 k1 hashes).map asmLineOf) := by
  rw [asmLineOf_hashCommands, expandLine, List.map_map]
  rfl

/-- HASH stands for the driver's commands, where the driver can read its message (R82, R64). -/
theorem expandLine_hash (k0 k1 : Word) (base len : Nat) (mode : PadMode) :
    expandLine mem (.hash k0.toNat k1.toNat base len mode) =
      (driverPackets mode mem base len).map (fun packets => (hashCommands k0 k1 packets).map asmLineOf) := by
  simp only [asmLineOf_hashCommands, expandLine]
  cases driverPackets mode mem base len <;> rfl

/-- ABSORBBYTES stands for one ABSORB of the little-endian word of its bytes (R82). -/
theorem expandLine_absorbBytes (b0 b1 b2 b3 b4 b5 b6 b7 : Byte) :
    expandLine mem
        (.absorbBytes b0.toNat b1.toNat b2.toNat b3.toNat b4.toNat b5.toNat b6.toNat b7.toNat) =
      some ([.absorb (le64 b0 b1 b2 b3 b4 b5 b6 b7)].map asmLineOf) := by
  simp [expandLine, literalFits_toNat, asmLineOf]

end

/-- Settles O45: each expansion is a list of instructions' lines, which assembles to their encodings. -/
theorem pseudoCommandsExpand : Obligations.PseudoCommandsExpand := by
  refine ⟨fun mem k0 k1 hashes => ?_, fun mem k0 k1 base len mode => ?_, fun mem b0 b1 b2 b3 b4 b5 b6 b7 => ?_⟩
  · rw [expandLine_reduce, Option.bind_some, assemble_asmLineOf]
  · rw [expandLine_hash]
    cases driverPackets mode mem base len with
    | none => rfl
    | some packets => exact assemble_asmLineOf (hashCommands k0 k1 packets)
  · rw [expandLine_absorbBytes, Option.bind_some, assemble_asmLineOf]
    rfl

end Sys2Proof.Machine
end

section
/-!
PROOFS of the family 30_encoding.md: the text of an assembler program (R81, R82).
-/

namespace Sys2Proof.Machine

section
variable {line : List Char}

/-- The first `#` of a line begins its comment (R81). -/
theorem stripComment_append_comment (comment : List Char) (h : '#' ∉ line) :
    stripComment (line ++ '#' :: comment) = line := by
  rw [stripComment, List.takeWhile_append_of_pos]
  · simp
  · intro c hc
    simpa using ne_of_mem_of_not_mem hc h

theorem stripComment_eq_self (h : '#' ∉ line) : stripComment line = line := by
  rw [stripComment, List.takeWhile_eq_self_iff]
  intro c hc
  simpa using ne_of_mem_of_not_mem hc h

/-- A line is read from what stands before its comment. -/
theorem assembleTextLine_congr {line' : List Char} (h : stripComment line = stripComment line') :
    assembleTextLine line = assembleTextLine line' := by
  simp only [assembleTextLine, parseLine, h]

theorem assembleTextLine_append_comment (comment : List Char) (h : '#' ∉ line) :
    assembleTextLine (line ++ '#' :: comment) = assembleTextLine line :=
  assembleTextLine_congr ((stripComment_append_comment comment h).trans (stripComment_eq_self h).symm)

end

section
variable {sep : Char} {cs : List Char}

theorem splitChars_ne_nil (sep : Char) (cs : List Char) : splitChars sep cs ≠ [] := by
  fun_cases splitChars sep cs <;> simp

/-- A character that is no separator goes to the front of the first piece. -/
theorem splitChars_cons_of_ne {c : Char} (hc : c ≠ sep) {w : List Char} {ws : List (List Char)}
    (h : splitChars sep cs = w :: ws) : splitChars sep (c :: cs) = (c :: w) :: ws := by
  rw [splitChars, if_neg hc, h]

/-- A text without a separator is one piece. -/
theorem splitChars_eq_singleton (h : sep ∉ cs) : splitChars sep cs = [cs] := by
  induction cs with
  | nil => rfl
  | cons c rest ih =>
    obtain ⟨hc, hrest⟩ := not_or.mp (List.mem_cons.not.mp h)
    exact splitChars_cons_of_ne (Ne.symm hc) (ih hrest)

/-- The first separator ends the first piece. -/
theorem splitChars_append_cons (h : sep ∉ cs) (rest : List Char) :
    splitChars sep (cs ++ sep :: rest) = cs :: splitChars sep rest := by
  induction cs with
  | nil => rw [List.nil_append, splitChars, if_pos rfl]
  | cons c cs ih =>
    obtain ⟨hc, hcs⟩ := not_or.mp (List.mem_cons.not.mp h)
    exact splitChars_cons_of_ne (Ne.symm hc) (ih hcs)

end

/-- The lines of a program assemble one after the other, and a refused line refuses the program. -/
theorem assembleLines_cons (line : List Char) (rest : List (List Char)) :
    assembleLines (line :: rest) =
      (assembleTextLine line).bind (fun ws => (assembleLines rest).map (fun more => ws ++ more)) := by
  rw [assembleLines]
  cases assembleTextLine line <;> cases assembleLines rest <;> rfl

/-- A line feed ends a line (R81). -/
theorem assembleText_cons_line {l1 : List Char} (h : '\n' ∉ l1) (l2 : List Char) :
    assembleText (l1 ++ '\n' :: l2) =
      (assembleTextLine l1).bind (fun ws => (assembleText l2).map (fun more => ws ++ more)) := by
  rw [assembleText, splitChars_append_cons h, assembleLines_cons, assembleText]

/-- A decimal digit (entry 12). -/
def IsDecimalDigit (c : Char) : Prop := 48 ≤ c.toNat ∧ c.toNat ≤ 57

/-- The number that decimal digits spell after those that gave `acc`. -/
def decimalValue (acc : Nat) (ds : List Char) : Nat := ds.foldl (fun n c => n * 10 + (c.toNat - 48)) acc

section
variable {c : Char} {ds : List Char}

theorem ne_of_isDecimalDigit (h : IsDecimalDigit c) {d : Char} (hd : d.toNat < 48 ∨ 57 < d.toNat) : c ≠ d := by
  obtain ⟨low, high⟩ := h
  rintro rfl
  omega

theorem isBlank_of_isDecimalDigit (h : IsDecimalDigit c) : isBlank c = false := by
  have space : c ≠ ' ' := ne_of_isDecimalDigit h (by decide)
  have tab : c ≠ '\t' := ne_of_isDecimalDigit h (by decide)
  have carriageReturn : c ≠ '\r' := ne_of_isDecimalDigit h (by decide)
  simp [isBlank, space, tab, carriageReturn]

theorem not_mem_of_decimalDigits (h : ∀ c ∈ ds, IsDecimalDigit c) {d : Char} (hd : d.toNat < 48 ∨ 57 < d.toNat) :
    d ∉ ds :=
  fun hmem => ne_of_isDecimalDigit (h d hmem) hd rfl

theorem digitValue_decimal (h : IsDecimalDigit c) : digitValue 10 c = some (c.toNat - 48) := by
  obtain ⟨low, high⟩ := h
  simp only [digitValue, low, high, and_self, if_true]
  rw [if_pos (by omega)]

/-- Decimal digits spell their number in base 10, most significant first. -/
theorem digitsValue_decimal (h : ∀ c ∈ ds, IsDecimalDigit c) (acc : Nat) :
    digitsValue 10 acc ds = some (decimalValue acc ds) := by
  induction ds generalizing acc with
  | nil => rfl
  | cons d ds ih =>
    obtain ⟨hd, hds⟩ := List.forall_mem_cons.mp h
    rw [digitsValue, digitValue_decimal hd]
    exact ih hds _

/-- No second digit is an `x`, so decimal digits are read in base 10. -/
theorem literalValue_decimal (hne : ds ≠ []) (h : ∀ c ∈ ds, IsDecimalDigit c) :
    literalValue ds = digitsValue 10 0 ds := by
  have noHex : 'x' ∉ ds := not_mem_of_decimalDigits h (by decide)
  unfold literalValue
  split
  · exact absurd rfl hne
  · rfl
  · simp at noHex
  · rfl

/-- A text that begins and ends without a blank is not trimmed. -/
theorem trimBlanks_eq_self {cs : List Char} (hne : cs ≠ []) (first : isBlank (cs.head hne) = false)
    (last : isBlank (cs.getLast hne) = false) : trimBlanks cs = cs := by
  have front : cs.dropWhile isBlank = cs :=
    List.dropWhile_eq_self_iff.mpr fun _ => by simpa [← List.head_eq_getElem hne] using first
  have back : cs.rdropWhile isBlank = cs := List.rdropWhile_eq_self_iff.mpr fun _ => by simpa using last
  rw [trimBlanks, front]
  exact back

theorem trimBlanks_cons_of_isBlank {b : Char} (hb : isBlank b = true) (cs : List Char) :
    trimBlanks (b :: cs) = trimBlanks cs := by
  rw [trimBlanks, trimBlanks, List.dropWhile_cons_of_pos hb]

theorem trimBlanks_decimal (hne : ds ≠ []) (h : ∀ c ∈ ds, IsDecimalDigit c) : trimBlanks ds = ds :=
  trimBlanks_eq_self hne (isBlank_of_isDecimalDigit (h _ (List.head_mem hne)))
    (isBlank_of_isDecimalDigit (h _ (List.getLast_mem hne)))

/-- One decimal operand has no comma and no blank, so it is read as one literal. -/
theorem literalValues_decimal (hne : ds ≠ []) (h : ∀ c ∈ ds, IsDecimalDigit c) :
    literalValues (splitChars ',' ds) = some [decimalValue 0 ds] := by
  rw [splitChars_eq_singleton (not_mem_of_decimalDigits h (by decide)), literalValues, trimBlanks_decimal hne h,
    literalValue_decimal hne h, digitsValue_decimal h]
  rfl

/-- The line of an ABSORB with a decimal operand. -/
def absorbText (ds : List Char) : List Char := ['A', 'B', 'S', 'O', 'R', 'B'] ++ ' ' :: ds

theorem stripComment_absorbText (h : ∀ c ∈ ds, IsDecimalDigit c) : stripComment (absorbText ds) = absorbText ds := by
  have noComment : '#' ∉ ds := not_mem_of_decimalDigits h (by decide)
  exact stripComment_eq_self (by simp [absorbText, noComment])

theorem trimBlanks_absorbText (hne : ds ≠ []) (h : ∀ c ∈ ds, IsDecimalDigit c) :
    trimBlanks (absorbText ds) = absorbText ds := by
  refine trimBlanks_eq_self (List.cons_ne_nil _ _) rfl ?_
  have last : (absorbText ds).getLast (List.cons_ne_nil _ _) = ds.getLast hne := by
    simp [absorbText, List.getLast_cons, hne]
  rw [last]
  exact isBlank_of_isDecimalDigit (h _ (List.getLast_mem hne))

theorem parseLine_absorbText (hne : ds ≠ []) (h : ∀ c ∈ ds, IsDecimalDigit c) :
    parseLine (absorbText ds) = some (some (.plain (.absorb (decimalValue 0 ds)))) := by
  have mnemonic : (absorbText ds).takeWhile (fun c => !isBlank c) = ['A', 'B', 'S', 'O', 'R', 'B'] := rfl
  have operand : trimBlanks ((absorbText ds).dropWhile (fun c => !isBlank c)) = ds :=
    (trimBlanks_cons_of_isBlank rfl ds).trans (trimBlanks_decimal hne h)
  simp only [parseLine, stripComment_absorbText h, trimBlanks_absorbText hne h, mnemonic, operand,
    List.isEmpty_eq_false_iff.mpr hne, Bool.false_eq_true, if_false, literalValues_decimal hne h]
  rfl

/-- A line that parses to an instruction's line assembles to that instruction's encoding. -/
theorem assembleTextLine_of_parseLine {line : List Char} {i : Instr}
    (h : parseLine line = some (some (.plain (asmLineOf i)))) : assembleTextLine line = some [encode i] := by
  rw [assembleTextLine, h]
  exact assemble_asmLineOf [i]

end

/-- Settles O44: a line is read from what stands before its comment, line by line, and decimal digits by their value. -/
theorem assemblerTextReadsCommands : Obligations.AssemblerTextReadsCommands := by
  refine ⟨fun line comment => assembleTextLine_append_comment comment,
    fun comment => assembleTextLine_append_comment (line := []) comment List.not_mem_nil, by decide, ?_,
    fun l1 l2 h => assembleText_cons_line h l2⟩
  intro ds m hne digits value
  have parsed := parseLine_absorbText hne digits
  rw [show decimalValue 0 ds = m.toNat from value] at parsed
  exact assembleTextLine_of_parseLine (i := .absorb m) parsed

end Sys2Proof.Machine
end

section
/-!
PROOFS of the family 30_encoding.md: the handshake at the command port and the answer of every step (R71, R79, R192).
-/

namespace Sys2Proof.Machine

/-- Every instruction answers a next state: it is the command its encoding runs. -/
theorem exec_next (i : Instr) (s : State) : ∃ t, exec i s = .next t := by
  rw [← runCommand_of_decode_command (decode_encode i)]
  exact runCommand_next (encode i) s

/-- A step answers a next state or is a read of `digest` at DV = 0. -/
theorem step_next_or_digestNotValid (s : State) :
    (∃ t, step s = .next t) ∨
      (step s = .fault .digestNotValid ∧ s.hostMoves.head? = some .readDigest ∧ readDigest s = none) := by
  rcases hm : s.hostMoves.head? with _ | m
  · exact .inl ⟨s, step_idle hm⟩
  cases m with
  | command cmd =>
    rw [step_command hm]
    cases s.busy with
    | true => exact .inl ⟨s, rfl⟩
    | false => exact .inl (runCommand_next cmd (popMove s))
  | readStatus => exact .inl ⟨_, step_readStatus hm⟩
  | readDigest =>
    rw [step_readDigest hm, readDigest_eq_none_iff]
    cases s.dv with
    | true => exact .inl ⟨_, rfl⟩
    | false => exact .inr ⟨rfl, rfl, rfl⟩
  | reset => exact .inl ⟨_, step_applyReset hm⟩

/-- Settles O49: by the host's oldest move. -/
theorem everyStepAnswers : Obligations.EveryStepAnswers :=
  ⟨step_next_or_digestNotValid, fun s idle => step_idle (by rw [idle]; rfl), exec_next⟩

/-- A table word is read as an instruction exactly where the decoder answers that instruction. -/
theorem decodeTableWord_eq_some_iff {nbits w : Nat} {i : Instr} :
    decodeTableWord nbits w = some i ↔ decode (tableWord nbits w) = .command i := by
  rw [decodeTableWord]
  cases decode (tableWord nbits w) <;> simp

/-- Settles O48: the placed word is the oldest move of a ready engine, and taking it off leaves the moves as they were. -/
theorem placedWordRunsNext : Obligations.PlacedWordRunsNext := by
  intro s nbits w i h
  rw [State.withFetchWord, step_command_of_ready (placeCommand_busy s _) (placeCommand_hostMoves s _),
    runCommand_of_decode_command (decodeTableWord_eq_some_iff.mp h), placeCommand]

section
variable (lat : Latency) (p q : Pins) (a : State) (f : Inflight)

/-- While a command is in flight an edge reads `rst` alone: it resets, counts down or completes the latched command. -/
theorem tick_inflight_congr (hr : p.rst = q.rst) :
    tick lat p { arch := a, inflight := some f } = tick lat q { arch := a, inflight := some f } := by
  rw [tick, tick, hr]

theorem tick_inflight_next : ∃ t, tick lat p { arch := a, inflight := some f } = .next t := by
  cases hr : p.rst with
  | true => exact ⟨_, tick_reset lat hr _⟩
  | false =>
    rcases Nat.lt_or_ge 1 f.left with waits | last
    · exact ⟨_, tick_wait lat hr a waits⟩
    · obtain ⟨t, run⟩ := runCommand_next f.cmd { a with busy := false }
      exact ⟨_, (tick_complete lat hr a last).trans (completeCommand_eq run)⟩

end

/-- Settles O33: whatever the edge does with the command in flight, it does from the latched word. -/
theorem portIsIgnoredWhileInFlight : Obligations.PortIsIgnoredWhileInFlight :=
  fun lat p q a f hr => ⟨tick_inflight_congr lat p q a f hr, tick_inflight_next lat p a f⟩

/-- Settles O32: an edge accepts only with the engine ready; in flight or in reset it does not read the port. -/
theorem handshakeAcceptsWhenReady : Obligations.HandshakeAcceptsWhenReady := by
  refine ⟨fun lat p a hr hb => ⟨fun valid => ?_, fun invalid => tick_idle lat hr invalid a⟩,
    fun lat p q a f hr _ => portIsIgnoredWhileInFlight lat p q a f hr,
    fun lat p q c hp hq => (tick_reset lat hp c).trans (tick_reset lat hq c).symm, fun _ _ => rfl⟩
  exact ⟨_, _, tick_accept lat hr valid hb, rfl, rfl, rfl, rfl⟩

end Sys2Proof.Machine
end

section
/-!
PROOFS of the family 40_arx_permutation.md: SipRound's steps and rotations (R92, R94), SipCompress as an iterate of it
(R95, R98).
-/

namespace Sys2Proof.Machine

/-- Settles O19: by unfolding the eight steps, and by evaluating them on the worked example. -/
theorem sipRoundFollowsEightSteps : Obligations.SipRoundFollowsEightSteps :=
  ⟨fun _ _ _ _ => rfl, by decide⟩

/-- A rotation by half the width exchanges the two halves (R94). -/
theorem rotl64_half (x : Word) : rotl64 x 32 = x.extractLsb' 0 32 ++ x.extractLsb' 32 32 := by
  refine BitVec.eq_of_getLsbD_eq fun i hi => ?_
  rw [getLsbD_rotl64 x (by decide) hi, BitVec.getLsbD_append]
  by_cases low : i < 32
  · simp [low]
  · have high : i - 32 < 32 := by omega
    simp [low, high]

/-- Settles O20: each rotation of the model is core Lean's by the same amount. -/
theorem rotationAmountsOfTheSteps : Obligations.RotationAmountsOfTheSteps := by
  refine ⟨fun l => ⟨?_, ?_, ?_, ?_, ?_, ?_⟩, rotl64_half⟩ <;> exact rotl64_eq_rotateLeft _ (by decide)

/-- SipCompress(R) is the R-th iterate of SipRound (R95). -/
theorem sipCompress_eq_iterate (n : Nat) : sipCompress n = sipRound^[n] := by
  induction n with
  | zero => rfl
  | succ n ih =>
    funext l
    rw [sipCompress_succ, ih, Function.iterate_succ_apply]

/-- Settles O22: the model's recursion starts with the first round, an iterate may as well end with the last one. -/
theorem sipCompressIteratesSipRound : Obligations.SipCompressIteratesSipRound := by
  refine ⟨fun n l => ⟨sipCompress_zero l, ?_⟩, by decide⟩
  rw [sipCompress_eq_iterate, sipCompress_eq_iterate, Function.iterate_succ_apply']

theorem sipRound_zero : sipRound ⟨0, 0, 0, 0⟩ = ⟨0, 0, 0, 0⟩ := by
  decide

/-- Settles O24: the iterates of a function keep its fixed points. -/
theorem zeroStateIsFixedPoint : Obligations.ZeroStateIsFixedPoint := by
  refine ⟨sipRound_zero, fun n => ?_⟩
  rw [sipCompress_eq_iterate, Function.iterate_fixed sipRound_zero]

end Sys2Proof.Machine
end

section
/-!
PROOFS of the family 40_arx_permutation.md: the inverse of the rotations, of SipRound and of SipCompress (R97).
-/

namespace Sys2Proof.Machine

/-- Two rotations whose amounts make up the width undo each other. -/
theorem rotl64_rotl64_of_add_eq (x : Word) {m n : Nat} (hm : 0 < m) (hn : 0 < n) (width : m + n = 64) :
    rotl64 (rotl64 x m) n = x := by
  refine BitVec.eq_of_getLsbD_eq fun i hi => ?_
  have around : ((i + (64 - n)) % 64 + (64 - m)) % 64 = i := by omega
  rw [rotationIsCircular _ n i hn (by omega) hi,
    rotationIsCircular x m _ hm (by omega) (Nat.mod_lt _ (by decide)), around]

section
variable (x : Word) {n : Nat} (hpos : 0 < n) (hlt : n < 64)
include hpos hlt

theorem rotr64_rotl64 : rotr64 (rotl64 x n) n = x :=
  rotl64_rotl64_of_add_eq x hpos (by omega) (by omega)

theorem rotl64_rotr64 : rotl64 (rotr64 x n) n = x :=
  rotl64_rotl64_of_add_eq x (by omega) hpos (by omega)

end

/-! Each step of SipRound with its inverse (R97): an addition is undone by the subtraction of the same lane, a rotation by
the opposite one, an exclusive or by itself. -/

def sipStep1Equiv : Lanes ≃ Lanes where
  toFun := sipStep1
  invFun := sipUnstep1
  left_inv l := by simp [sipStep1, sipUnstep1]
  right_inv l := by simp [sipStep1, sipUnstep1]

def sipStep2Equiv : Lanes ≃ Lanes where
  toFun := sipStep2
  invFun := sipUnstep2
  left_inv l := by simp [sipStep2, sipUnstep2, rotr64_rotl64]
  right_inv l := by simp [sipStep2, sipUnstep2, rotl64_rotr64]

def sipStep3Equiv : Lanes ≃ Lanes where
  toFun := sipStep3
  invFun := sipUnstep3
  left_inv l := by simp [sipStep3, sipUnstep3]
  right_inv l := by simp [sipStep3, sipUnstep3]

def sipStep4Equiv : Lanes ≃ Lanes where
  toFun := sipStep4
  invFun := sipUnstep4
  left_inv l := by simp [sipStep4, sipUnstep4, rotr64_rotl64]
  right_inv l := by simp [sipStep4, sipUnstep4, rotl64_rotr64]

def sipStep5Equiv : Lanes ≃ Lanes where
  toFun := sipStep5
  invFun := sipUnstep5
  left_inv l := by simp [sipStep5, sipUnstep5]
  right_inv l := by simp [sipStep5, sipUnstep5]

def sipStep6Equiv : Lanes ≃ Lanes where
  toFun := sipStep6
  invFun := sipUnstep6
  left_inv l := by simp [sipStep6, sipUnstep6, rotr64_rotl64]
  right_inv l := by simp [sipStep6, sipUnstep6, rotl64_rotr64]

def sipStep7Equiv : Lanes ≃ Lanes where
  toFun := sipStep7
  invFun := sipUnstep7
  left_inv l := by simp [sipStep7, sipUnstep7]
  right_inv l := by simp [sipStep7, sipUnstep7]

def sipStep8Equiv : Lanes ≃ Lanes where
  toFun := sipStep8
  invFun := sipUnstep8
  left_inv l := by simp [sipStep8, sipUnstep8, rotr64_rotl64]
  right_inv l := by simp [sipStep8, sipUnstep8, rotl64_rotr64]

/-- SipRound with SipRoundInverse: the steps one after the other. -/
def sipRoundEquiv : Lanes ≃ Lanes :=
  sipStep1Equiv.trans <| sipStep2Equiv.trans <| sipStep3Equiv.trans <| sipStep4Equiv.trans <|
    sipStep5Equiv.trans <| sipStep6Equiv.trans <| sipStep7Equiv.trans sipStep8Equiv

theorem sipRoundInverse_sipRound (l : Lanes) : sipRoundInverse (sipRound l) = l :=
  sipRoundEquiv.symm_apply_apply l

theorem sipRound_sipRoundInverse (l : Lanes) : sipRound (sipRoundInverse l) = l :=
  sipRoundEquiv.apply_symm_apply l

theorem sipRound_bijective : Function.Bijective sipRound := sipRoundEquiv.bijective

theorem sipCompress_bijective (n : Nat) : Function.Bijective (sipCompress n) := by
  rw [sipCompress_eq_iterate]
  exact sipRound_bijective.iterate n

/-- Settles O23: the inverse round undoes each step, and the iterates of a bijection are bijections. -/
theorem permutationIsBijective : Obligations.PermutationIsBijective :=
  ⟨fun l => ⟨sipRoundInverse_sipRound l, sipRound_sipRoundInverse l⟩, sipCompress_bijective,
    fun x _ hpos hlt => ⟨rotr64_rotl64 x hpos hlt, rotl64_rotr64 x hpos hlt⟩⟩

end Sys2Proof.Machine
end

section
/-!
PROOFS of the family 40_arx_permutation.md: the commands lose nothing of the key or of the state (R97, R110, R114, R130).
-/

namespace Sys2Proof.Machine

/-- Different keys load different states (R110). -/
theorem initLanes_inj {k0 k1 j0 j1 : Word} (h : initLanes k0 k1 = initLanes j0 j1) : k0 = j0 ∧ k1 = j1 := by
  obtain ⟨h0, h1, -, -⟩ := Lanes.mk.inj h
  exact ⟨(xor_right_involutive c0).injective h0, (xor_right_involutive c1).injective h1⟩

/-- The exclusive or, lane by lane. -/
def xorLanes (x l : Lanes) : Lanes := ⟨l.v0 ^^^ x.v0, l.v1 ^^^ x.v1, l.v2 ^^^ x.v2, l.v3 ^^^ x.v3⟩

theorem xorLanes_involutive (x : Lanes) : Function.Involutive (xorLanes x) :=
  fun l => by simp [xorLanes]

/-- ABSORB is SipCompress between two exclusive ors (R114). -/
theorem absorbLanes_eq_comp (m : Word) :
    absorbLanes m = xorLanes ⟨m, 0, 0, 0⟩ ∘ sipCompress cRounds ∘ xorLanes ⟨0, 0, 0, m⟩ := by
  funext l
  simp [absorbLanes, xorLanes]

/-- FINALIZE is SipCompress after an exclusive or (R130). -/
theorem finalLanes_eq_comp : finalLanes = sipCompress dRounds ∘ xorLanes ⟨0, 0, domainConstant, 0⟩ := by
  funext l
  simp [finalLanes, xorLanes]

theorem absorbLanes_bijective (m : Word) : Function.Bijective (absorbLanes m) := by
  rw [absorbLanes_eq_comp]
  exact (xorLanes_involutive _).bijective.comp
    ((sipCompress_bijective cRounds).comp (xorLanes_involutive _).bijective)

theorem finalLanes_bijective : Function.Bijective finalLanes := by
  rw [finalLanes_eq_comp]
  exact (sipCompress_bijective dRounds).comp (xorLanes_involutive _).bijective

/-- Settles O26: from the bijectivity of SipCompress. -/
theorem keysAndStatesStayDistinct : Obligations.KeysAndStatesStayDistinct :=
  ⟨fun _ _ _ _ => initLanes_inj, absorbLanes_bijective, finalLanes_bijective⟩

end Sys2Proof.Machine
end

section
/-!
PROOFS of the family 41_init_absorb.md: what a command leaves unchanged (R110, R114, R130, R155).
-/

namespace Sys2Proof.Machine

/-- An instruction, being the command its encoding runs, changes none of BUSY, the host's moves, the replies and the
reset count. -/
theorem exec_frame {i : Instr} {s t : State} (h : exec i s = .next t) :
    t.busy = s.busy ∧ t.hostMoves = s.hostMoves ∧ t.replies = s.replies ∧ t.resets = s.resets :=
  runCommand_frame ((runCommand_of_decode_command (decode_encode i) s).trans h)

/-- Settles O16: in sequence ABSORB and FINALIZE write their own registers, out of sequence they only raise a fault. -/
theorem commandsLeaveTheRestUnchanged : Obligations.CommandsLeaveTheRestUnchanged := by
  intro i s t h
  refine ⟨exec_frame h, ?_⟩
  cases i with
  | init key0 key1 =>
    cases (execInit_eq key0 key1 s).symm.trans h
    exact ⟨rfl, rfl, rfl⟩
  | absorb packet =>
    simp only [← inSequence_iff, ← inSequence_eq_false_iff]
    rcases phase_cases s.phase with hp | hp
    · cases (execAbsorb_inSequence hp packet).symm.trans h
      simp [hp]
    · cases (execAbsorb_outOfSequence hp packet).symm.trans h
      simp [hp]
  | finalize =>
    simp only [← inSequence_iff, ← inSequence_eq_false_iff]
    rcases phase_cases s.phase with hp | hp
    · cases (execFinalize_inSequence hp).symm.trans h
      simp [hp]
    · cases (execFinalize_outOfSequence hp).symm.trans h
      simp [hp]

end Sys2Proof.Machine
end

section
/-!
PROOFS of the family 41_init_absorb.md: INIT (R110, R111).
-/

namespace Sys2Proof.Machine

/-- Settles O12: INIT's next state has its own V, PHASE and DV; the other moves follow by the step's effect, where a command
that is not INIT runs by its own rule or faults and writes neither V nor PHASE. -/
theorem initReplacesAnyComputation : Obligations.InitReplacesAnyComputation := by
  refine ⟨fun key0 key1 s _ _ _ => ⟨rfl, _, execInit_eq key0 key1 s, rfl⟩, ?_⟩
  intro s t hs _
  cases step_effect hs with
  | command cmd _ hm _ run =>
    cases runCommand_effect run with
    | init op => exact .inr (.inl ⟨cmd, hm, op⟩)
    | absorb op => exact .inr (.inr (.inl ⟨cmd, hm, op, rfl, rfl⟩))
    | finalize op => exact .inr (.inr (.inr (.inl ⟨cmd, hm, op, rfl, rfl⟩)))
    | sequenceFault | illegalFault => exact .inr (.inr (.inr (.inr ⟨rfl, rfl⟩)))
  | reset hm => exact .inl hm
  | idle | held | readStatus | readDigest => exact .inr (.inr (.inr (.inr ⟨rfl, rfl⟩)))

section
variable (key0 key1 mask : Word)

/-- The bits that differ in `key0` differ in V0 and V2 (R110). -/
theorem initLanes_xor_key0 :
    initLanes (key0 ^^^ mask) key1 = xorLanes ⟨mask, 0, mask, 0⟩ (initLanes key0 key1) := by
  simp [initLanes, xorLanes, BitVec.xor_assoc]

/-- The bits that differ in `key1` differ in V1 and V3 (R110). -/
theorem initLanes_xor_key1 :
    initLanes key0 (key1 ^^^ mask) = xorLanes ⟨0, mask, 0, mask⟩ (initLanes key0 key1) := by
  simp [initLanes, xorLanes, BitVec.xor_assoc]

end

theorem one_shiftLeft_ne_zero {i : Nat} (hi : i < 64) : 1#64 <<< i ≠ 0#64 := by
  intro zero
  have bit : (BitVec.twoPow 64 i).getLsbD i = (0#64).getLsbD i := by rw [BitVec.twoPow_eq, zero]
  simp [hi] at bit

/-- Settles O11: the two halves of the key stand in different lanes, so a flipped key bit shows in its own two. -/
theorem initLoadsKeyedState : Obligations.InitLoadsKeyedState := by
  refine ⟨fun cmd => decode_init, execInit_eq, by decide, fun key0 key1 i hi => ⟨?_, ?_, ?_⟩, by decide⟩
  · rw [initLanes_xor_key0]
    simp [xorLanes]
  · rw [initLanes_xor_key1]
    simp [xorLanes]
  · exact one_shiftLeft_ne_zero hi

end Sys2Proof.Machine
end

section
/-!
PROOFS of the family 41_init_absorb.md: ABSORB (R114 to R117).
-/

namespace Sys2Proof.Machine

/-- The packet 0 is mixed in by the rounds alone (R114). -/
theorem absorbLanes_zero (l : Lanes) : absorbLanes 0 l = sipCompress cRounds l := by
  simp [absorbLanes]

/-- Settles O13: the phase decides between R114's effect and the fault; that the order of the two XORs shows in the digest is
seen at the packet 1 on the key (0, 0). -/
theorem absorbMixesPacket : Obligations.AbsorbMixesPacket := by
  refine ⟨fun cmd => decode_absorb, fun m s hp => ?_, fun m s hp => ?_, absorbLanes_zero, by decide,
    1, initLanes 0 0, by decide⟩
  · exact execAbsorb_inSequence ((inSequence_iff s.phase).mpr hp) m
  · exact execAbsorb_outOfSequence ((inSequence_eq_false_iff s.phase).mpr hp) m

/-- The digest depends on the order of the packets (R117). -/
theorem keyedHash_depends_on_order : ∃ k0 k1 a b : Word, keyedHash k0 k1 [a, b] ≠ keyedHash k0 k1 [b, a] :=
  ⟨0, 0, 0, 1, by decide⟩

/-- Settles O14: the run of ABSORB commands, by induction on the packets, and one pair of packets whose order matters. -/
theorem absorbIsReentrant : Obligations.AbsorbIsReentrant :=
  ⟨fun _ _ s hb hp hm => runSteps_absorbs hb ((inSequence_iff s.phase).mpr hp) hm, keyedHash_depends_on_order⟩

end Sys2Proof.Machine
end

section
/-!
PROOFS of the family 42_finalization.md: FINALIZE (R130 to R132, R135) and the keyed hash (R136).
-/

namespace Sys2Proof.Machine

/-- The digest fold takes the lanes in any grouping (R131). -/
theorem digestFold_eq_right_nested (l : Lanes) : digestFold l = l.v0 ^^^ (l.v1 ^^^ (l.v2 ^^^ l.v3)) :=
  BitVec.xor_assoc _ _ _

/-- The digest fold takes the lanes in any order (R131). -/
theorem digestFold_eq_reversed (l : Lanes) : digestFold l = ((l.v3 ^^^ l.v2) ^^^ l.v1) ^^^ l.v0 := by
  rw [digestFold]
  ac_rfl

/-- Settles O15: the phase decides between R130's effect, its four rounds written out, and the fault; the worked example is
evaluated. -/
theorem finalizeProducesDigest : Obligations.FinalizeProducesDigest := by
  refine ⟨fun cmd => decode_finalize, fun s hp => ?_, fun s hp => ?_,
    fun l => ⟨digestFold_eq_right_nested l, digestFold_eq_reversed l⟩, by decide, by decide⟩
  · exact execFinalize_inSequence ((inSequence_iff s.phase).mpr hp)
  · exact execFinalize_outOfSequence ((inSequence_eq_false_iff s.phase).mpr hp)

/-- V0 and V2 are the same key word under different constants, so they are never both zero (R110). -/
theorem initLanes_ne_zero (key0 key1 : Word) : initLanes key0 key1 ≠ ⟨0, 0, 0, 0⟩ := by
  intro zero
  obtain ⟨v0, -, v2, -⟩ := Lanes.mk.inj zero
  have constants : c0 = c2 := (BitVec.xor_eq_zero_iff.mp v0).trans (BitVec.xor_eq_zero_iff.mp v2).symm
  exact absurd constants (by decide)

/-- Settles O25: the rounds alone keep the zero state, whose fold is zero; with the constant mixed in they are evaluated. -/
theorem domainSeparationOfZeroState : Obligations.DomainSeparationOfZeroState := by
  obtain ⟨-, roundsKeepZero⟩ := zeroStateIsFixedPoint
  refine ⟨by decide, ?_, initLanes_ne_zero⟩
  rw [roundsKeepZero]
  rfl

/-- Settles O17: the reducer's moves are the commands of one hash computation over the hashes. -/
theorem commandSequenceYieldsKeyedHash : Obligations.CommandSequenceYieldsKeyedHash := by
  refine ⟨fun key0 key1 hashes rest s hb hm => ?_, fun key0 key1 hashes => ?_, keyedHash_depends_on_order⟩
  · exact ⟨_, runSteps_hashCommands hb hm, (readDigest_eq_some_iff _ _).mpr ⟨rfl, rfl⟩, rfl, rfl, rfl, rfl, rfl⟩
  · rw [reducerMoves, presentAll_hashCommands, presentAll, List.map_map]
    rfl

end Sys2Proof.Machine
end

section
/-!
PROOFS of the family 42_finalization.md: the ports while a command is in flight (R134, R193, R194).
-/

namespace Sys2Proof.Machine

section
variable {lat : Latency} {p q : Pins} {waits : List Pins} {a t : State} {f : Inflight}

theorem ticks_nil (c : Clocked) : ticks lat [] c = .next c := rfl

theorem ticks_cons {c c' : Clocked} (h : tick lat p c = .next c') :
    ticks lat (p :: waits) c = ticks lat waits c' := by
  rw [ticks, h]

/-- Before the last cycle of a command in flight the edges only count down (R190). -/
theorem ticks_wait (hr : ∀ w ∈ waits, w.rst = false) (early : waits.length < f.left) :
    ticks lat waits { arch := a, inflight := some f } =
      .next { arch := a, inflight := some { cmd := f.cmd, left := f.left - waits.length } } := by
  induction waits generalizing f with
  | nil => rfl
  | cons w ws ih =>
    obtain ⟨hw, hws⟩ := List.forall_mem_cons.mp hr
    rw [List.length_cons] at early
    rw [ticks_cons (tick_wait lat hw a (by omega)), ih hws (by dsimp only; omega), List.length_cons, Nat.sub_sub,
      Nat.add_comm 1]

/-- The last edge of a command in flight completes it (R193). -/
theorem ticks_complete (hr : ∀ w ∈ waits, w.rst = false) (last : waits.length = f.left) (positive : 1 ≤ f.left)
    (run : runCommand f.cmd { a with busy := false } = .next t) :
    ticks lat waits { arch := a, inflight := some f } = .next { arch := t, inflight := none } := by
  induction waits generalizing f with
  | nil => simp [← last] at positive
  | cons w ws ih =>
    obtain ⟨hw, hws⟩ := List.forall_mem_cons.mp hr
    rw [List.length_cons] at last
    rcases Nat.lt_or_ge 1 f.left with waiting | final
    · rw [ticks_cons (tick_wait lat hw a waiting)]
      exact ih hws (by dsimp only; omega) (by dsimp only; omega) run
    · obtain rfl : ws = [] := List.length_eq_zero_iff.mp (by omega)
      rw [ticks_cons ((tick_complete lat hw a final).trans (completeCommand_eq run)), ticks_nil]

/-- From the edge that accepts it a command is in flight for its latency, BUSY 1 and the other registers as before
(R71, R190). -/
theorem ticks_accept (hb : a.busy = false) (hp : p.rst = false) (hv : p.cmdValid = true) :
    ticks lat (p :: waits) { arch := a, inflight := none } =
      ticks lat waits { arch := { a with busy := true }
                        inflight := some { cmd := p.cmd, left := latencyOf lat p.cmd a.phase } } :=
  ticks_cons (tick_accept lat hp hv hb)

/-- Fewer edges than its latency after its acceptance a command has changed BUSY alone (R193). -/
theorem ticks_command_in_flight (hb : a.busy = false) (hp : p.rst = false) (hv : p.cmdValid = true)
    (hr : ∀ w ∈ waits, w.rst = false) (early : waits.length < latencyOf lat p.cmd a.phase) :
    ticks lat (p :: waits) { arch := a, inflight := none } =
      .next { arch := { a with busy := true }
              inflight := some { cmd := p.cmd, left := latencyOf lat p.cmd a.phase - waits.length } } := by
  rw [ticks_accept hb hp hv, ticks_wait hr early]

/-- As many edges as its latency after its acceptance a command has had the effect of `runCommand` (R193). -/
theorem ticks_command_completed (hl : lat.wf = true) (hb : a.busy = false) (hp : p.rst = false)
    (hv : p.cmdValid = true) (hr : ∀ w ∈ waits, w.rst = false) (last : waits.length = latencyOf lat p.cmd a.phase)
    (run : runCommand p.cmd a = .next t) :
    ticks lat (p :: waits) { arch := a, inflight := none } = .next { arch := t, inflight := none } := by
  have notBusy : { a with busy := false } = a := by rw [← hb]
  rw [ticks_accept hb hp hv]
  exact ticks_complete hr last (one_le_latencyOf hl p.cmd a.phase) (notBusy ▸ run)

/-- Out of reset the ports show the registers as they are, under either RESET_STYLE (R180). -/
theorem settle_of_not_rst (style : ResetStyle) (hq : q.rst = false) (c : Clocked) : settle style q c = c := by
  cases style <;> simp [settle, hq]

end

/-- Settles O35: with the command in flight the registers differ from those before it in BUSY alone, which STATUS shows and
`digest` does not. -/
theorem portsShowValuesFromBeforeTheCommand : Obligations.PortsShowValuesFromBeforeTheCommand := by
  intro lat style a p q waits hl hb hp hv hq hw
  have noReset : ∀ w ∈ waits, w.rst = false := fun w h => (hw w h).1
  simp only [statusPort, digestPort, settle_of_not_rst style hq]
  refine ⟨fun early => ?_, fun last => ?_⟩
  · exact ⟨_, ticks_command_in_flight hb hp hv noReset early, statusWord_setBusy a hb,
      (getLsbD_statusWord a 2).trans hb, fun hdv => (readDigest_eq_some_iff _ _).mpr ⟨hdv, rfl⟩,
      (readDigest_eq_none_iff _).mpr⟩
  · obtain ⟨t, run⟩ := runCommand_next p.cmd a
    exact ⟨_, t, ticks_command_completed hl hb hp hv noReset last run, run, rfl, rfl⟩

end Sys2Proof.Machine
end

section
/-!
PROOFS of the family 60_exceptions.md: which commands fault and what a fault writes (R152 to R156, R158).
-/

namespace Sys2Proof.Machine

/-- The effect of a command is its next state: the converse of `runCommand_effect`. -/
theorem runCommand_of_effect {cmd : Command} {s t : State} (h : CommandEffect cmd s t) : runCommand cmd s = .next t := by
  cases h with
  | init op => exact runCommand_of_decode_command (decode_init op) s
  | absorb op hp =>
    exact (runCommand_of_decode_command (decode_absorb op) s).trans (execAbsorb_inSequence hp _)
  | finalize op hp =>
    exact (runCommand_of_decode_command (decode_finalize op) s).trans (execFinalize_inSequence hp)
  | sequenceFault op hp =>
    rcases op with op | op
    · exact (runCommand_of_decode_command (decode_absorb op) s).trans (execAbsorb_outOfSequence hp _)
    · exact (runCommand_of_decode_command (decode_finalize op) s).trans (execFinalize_outOfSequence hp)
  | illegalFault op =>
    obtain ⟨h1, h2, h3⟩ := op
    exact runCommand_of_decode_illegal (decode_illegal h1 h2 h3) s

/-- A fault writes ERR and, if it was 0, ECAUSE (R155). -/
theorem raiseFault_eq (c : Cause) (s : State) :
    raiseFault c s = { s with err := true, ecause := if s.ecause = .none then c else s.ecause } := rfl

/-- Settles O8: one case per effect of a command, each under the one branch of the chain that its opcode and phase select. -/
theorem faultIsSinglePreciseAndRecorded : Obligations.FaultIsSinglePreciseAndRecorded := by
  intro cmd s t run
  simp only [← inSequence_eq_false_iff]
  cases runCommand_effect run with
  | init op => simp [op]
  | absorb op hp => simp [op, hp]
  | finalize op hp => simp [op, hp]
  | sequenceFault op hp => rcases op with op | op <;> simp [op, hp, raiseFault_eq]
  | illegalFault op => rw [if_pos op, raiseFault_eq]

/-- Settles O10: which effect a command has depends on its opcode and on PHASE alone, and no effect reads ERR or ECAUSE into
another register. -/
theorem engineWorksOnAfterFault : Obligations.EngineWorksOnAfterFault := by
  intro cmd s e q
  obtain ⟨t, run⟩ := runCommand_next cmd s
  refine ⟨t, ?_⟩
  cases runCommand_effect run with
  | init op =>
    exact ⟨_, run, runCommand_of_effect (.init op), rfl, rfl, rfl, rfl, rfl, fun _ => rfl⟩
  | absorb op hp =>
    exact ⟨_, run, runCommand_of_effect (.absorb op hp), rfl, rfl, rfl, rfl, rfl, fun _ => rfl⟩
  | finalize op hp =>
    exact ⟨_, run, runCommand_of_effect (.finalize op hp), rfl, rfl, rfl, rfl, rfl, fun _ => rfl⟩
  | sequenceFault op hp =>
    refine ⟨_, run, runCommand_of_effect (.sequenceFault op hp), rfl, rfl, rfl, rfl, rfl, fun isInit => ?_⟩
    simp [isInit] at op
  | illegalFault op =>
    refine ⟨_, run, runCommand_of_effect (.illegalFault op), rfl, rfl, rfl, rfl, rfl, fun isInit => ?_⟩
    simp [isInit] at op

/-- Settles O6: the opcode alone decides, and the step takes the move off before the fault. -/
theorem reservedOpcodeRaisesIllegalCmd : Obligations.ReservedOpcodeRaisesIllegalCmd := by
  refine ⟨fun op a b s h1 h2 h3 => ?_, fun s => runCommand_of_effect (.illegalFault (by decide))⟩
  have reserved : opField (packCommand op a b) ≠ 0x01#8 ∧ opField (packCommand op a b) ≠ 0x02#8 ∧
      opField (packCommand op a b) ≠ 0x03#8 := by
    rw [opField_packCommand]
    exact ⟨h1, h2, h3⟩
  have illegal (u : State) : runCommand (packCommand op a b) u = .next (raiseFault .illegalCmd u) :=
    runCommand_of_effect (.illegalFault reserved)
  exact ⟨illegal s, fun rest hb hm => (step_command_of_ready hb hm).trans (illegal _)⟩

/-- Settles O7: IDLE and FINALIZED are the phases out of sequence, and INIT has no phase check. -/
theorem outOfPhaseRaisesSequence : Obligations.OutOfPhaseRaisesSequence := by
  refine ⟨fun s hp => ?_, fun s k0 k1 => ⟨_, execInit_eq k0 k1 s, rfl, rfl⟩⟩
  have outSeq : inSequence s.phase = false := (inSequence_eq_false_iff s.phase).mpr hp
  exact ⟨execAbsorb_outOfSequence outSeq, execFinalize_outOfSequence outSeq⟩

end Sys2Proof.Machine
end

section
/-!
PROOFS of the family 60_exceptions.md: a fault stays on record along a run (R150, R157).
-/

namespace Sys2Proof.Machine

/-- What every step keeps holds in every state that a run reaches. -/
theorem runSteps_keeps {P : State → Prop} (keep : ∀ {s t : State}, P s → step s = .next t → P t) {n : Nat}
    {s t : State} (hs : P s) (run : runSteps n s = .next t) : P t := by
  induction n generalizing s with
  | zero =>
    cases run
    exact hs
  | succ k ih =>
    cases h : step s with
    | next u =>
      rw [runSteps_succ k h] at run
      exact ih (keep hs h) run
    | fault r => simp [runSteps, h] at run
    | refused r => simp [runSteps, h] at run

/-- A step takes at most the oldest of the host's moves and adds none. -/
theorem step_hostMoves_suffix {s t : State} (h : step s = .next t) : t.hostMoves <:+ s.hostMoves := by
  cases step_effect h with
  | idle | held => exact List.suffix_rfl
  | command cmd _ _ _ run =>
    obtain ⟨-, moves, -⟩ := runCommand_frame run
    rw [moves]
    exact List.tail_suffix _
  | readStatus | readDigest | reset => exact List.tail_suffix _

/-- A fault is recorded and the host will make no reset. -/
def State.StaysFaulted (s : State) : Prop := s.err = true ∧ .reset ∉ s.hostMoves

theorem step_staysFaulted {s t : State} (h : s.StaysFaulted) (hs : step s = .next t) : t.StaysFaulted := by
  obtain ⟨err, noReset⟩ := h
  have notOldest : s.hostMoves.head? ≠ some .reset := fun oldest => noReset (List.mem_of_head? oldest)
  obtain ⟨keepsErr, -⟩ := step_keeps_err hs notOldest
  exact ⟨keepsErr err, fun coming => noReset ((step_hostMoves_suffix hs).mem coming)⟩

/-- Settles O53: the run keeps ERR = 1, where a final state has ERR = 0. -/
theorem faultedRunIsNeverFinal : Obligations.FaultedRunIsNeverFinal := by
  intro n s t err noReset run
  obtain ⟨stays, -⟩ : t.StaysFaulted := runSteps_keeps step_staysFaulted ⟨err, noReset⟩ run
  refine ⟨stays, fun ⟨_, noErr⟩ => ?_⟩
  simp [stays] at noErr

end Sys2Proof.Machine
end

section
/-!
PROOFS of the family 70_reset_and_hazards.md: the end of a run (R199).
-/

namespace Sys2Proof.Machine

section
variable {s t : State} {front back : List HostMove}

/-- A run of several steps that answers makes a first step that answers. -/
theorem runSteps_succ_split {n : Nat} (run : runSteps (n + 1) s = .next t) :
    ∃ u, step s = .next u ∧ runSteps n u = .next t := by
  cases h : step s with
  | next u => exact ⟨u, rfl, (runSteps_succ n h).symm.trans run⟩
  | fault r => simp [runSteps, h] at run
  | refused r => simp [runSteps, h] at run

/-- A run that answers passes through the state after each of its parts. -/
theorem runSteps_split {m n : Nat} (run : runSteps (m + n) s = .next t) :
    ∃ u, runSteps m s = .next u ∧ runSteps n u = .next t := by
  induction m generalizing s with
  | zero => exact ⟨s, rfl, by rwa [Nat.zero_add] at run⟩
  | succ k ih =>
    rw [Nat.succ_add] at run
    obtain ⟨u, first, others⟩ := runSteps_succ_split run
    rw [runSteps_succ k first]
    exact ih others

/-- From a ready engine as many steps as the host has moves in front do those moves, and leave the engine ready. -/
theorem runSteps_moves (hb : s.busy = false) (hm : s.hostMoves = front ++ back)
    (run : runSteps front.length s = .next t) : t.busy = false ∧ t.hostMoves = back := by
  induction front generalizing s with
  | nil =>
    cases run
    exact ⟨hb, hm⟩
  | cons m ms ih =>
    obtain ⟨u, first, others⟩ := runSteps_succ_split run
    obtain ⟨ub, um⟩ := step_move hb hm first
    exact ih ub um others

/-- Only a read of `digest` can stop a run (R134, R158). -/
theorem runSteps_answers_of_no_readDigest (hb : s.busy = false) (hm : s.hostMoves = front ++ back)
    (noRead : .readDigest ∉ front) : ∃ t, runSteps front.length s = .next t := by
  induction front generalizing s with
  | nil => exact ⟨s, rfl⟩
  | cons m ms ih =>
    obtain ⟨notFirst, notLater⟩ := List.ne_and_not_mem_of_not_mem_cons noRead
    rcases step_next_or_digestNotValid s with ⟨u, hs⟩ | ⟨-, oldest, -⟩
    · obtain ⟨ub, um⟩ := step_move hb hm hs
      rw [List.length_cons, runSteps_succ _ hs]
      exact ih ub um notLater
    · rw [hm] at oldest
      exact absurd (Option.some.inj oldest).symm notFirst

/-- While a command is still to come the sequence has not ended (R199). -/
theorem not_ended_of_command {cmd : Command} (coming : .command cmd ∈ s.hostMoves) : ¬ s.ended := by
  rintro ⟨noCommand, -⟩
  cases noCommand _ coming

/-- A run that does a command passes through states before it in which the sequence has not ended (R199). -/
theorem runSteps_not_ended_before_command {cmd : Command} (hb : s.busy = false)
    (hm : s.hostMoves = front ++ .command cmd :: back) (run : runSteps (front.length + 1) s = .next t) :
    ∀ n ≤ front.length, ∃ u, runSteps n s = .next u ∧ ¬ u.ended := by
  intro n hn
  obtain ⟨after, whole⟩ : ∃ after, front.length + 1 = n + after := Nat.exists_eq_add_of_le (by omega)
  obtain ⟨u, done, -⟩ := runSteps_split (whole ▸ run)
  have split : s.hostMoves = front.take n ++ (front.drop n ++ .command cmd :: back) := by
    rw [hm, ← List.append_assoc, List.take_append_drop]
  obtain ⟨-, um⟩ := runSteps_moves hb split (by rwa [List.length_take_of_le hn])
  exact ⟨u, done, not_ended_of_command (cmd := cmd) (by simp [um])⟩

/-- The result of a run is that of the first state in which its sequence has ended, however many steps follow (R199). -/
theorem resultOfRun_of_first_ended {n : Nat} (run : runSteps n s = .next t)
    (before : ∀ k < n, ∃ u, runSteps k s = .next u ∧ ¬ u.ended) (ended : t.ended) (more : Nat) :
    resultOfRun (n + more) s = some t.result := by
  induction n generalizing s with
  | zero =>
    cases run
    exact resultOfRun_ended _ ended
  | succ k ih =>
    obtain ⟨_, ⟨⟩, running⟩ := before 0 k.succ_pos
    obtain ⟨u, first, others⟩ := runSteps_succ_split run
    rw [Nat.succ_add, resultOfRun_succ _ running first]
    refine ih others fun j hj => ?_
    rw [← runSteps_succ j first]
    exact before (j + 1) (Nat.succ_lt_succ hj)

end

/-- Settles O59: up to the last command that command is among the host's moves, and after it none is. -/
theorem runEndsWhenLastCommandCompletes : Obligations.RunEndsWhenLastCommandCompletes := by
  refine ⟨?_, ?_, fun _ => ⟨rfl, rfl, rfl, rfl⟩⟩
  · intro before rest cmd s t hb noCommand hm run
    obtain ⟨tb, tm⟩ := runSteps_moves hb (hm.trans (List.append_cons ..)) (by rwa [List.length_append])
    have ended : t.ended := by
      refine ⟨fun m coming => ?_, tb⟩
      rw [tm] at coming
      rcases noCommand m coming with rfl | rfl | rfl <;> rfl
    have running := runSteps_not_ended_before_command hb hm run
    refine ⟨ended, tm, running, fun n hn => ?_⟩
    obtain ⟨more, rfl⟩ := Nat.exists_eq_add_of_le (Nat.succ_le_of_lt hn)
    exact resultOfRun_of_first_ended run (fun k hk => running k (Nat.le_of_lt_succ hk)) ended more
  · intro before rest cmd s hb noRead hm
    have answers := runSteps_answers_of_no_readDigest hb (hm.trans (List.append_cons ..)) (by simp [noRead])
    rwa [List.length_append] at answers

end Sys2Proof.Machine
end

section
/-!
PROOFS of the family 70_reset_and_hazards.md: reset (R180 to R182).
-/

namespace Sys2Proof.Machine

@[simp] theorem statusWord_applyReset (s : State) : statusWord (applyReset s) = 0x00#8 :=
  statusWord_resetAt _ _ _

/-- An asynchronous reset shows at once what it leaves (R180). -/
theorem statusPort_async_of_rst {p : Pins} (hr : p.rst = true) (c : Clocked) : statusPort .async p c = 0x00#8 := by
  simp [statusPort, settle, hr, resetClocked]

/-- After a reset STATUS reads 0x00 whatever the pins do: a further reset leaves the same (R180). -/
theorem statusPort_resetClocked (style : ResetStyle) (p : Pins) (c : Clocked) :
    statusPort style p (resetClocked c) = 0x00#8 := by
  cases style with
  | sync => exact statusWord_applyReset c.arch
  | async =>
    cases hr : p.rst with
    | true => exact statusPort_async_of_rst hr _
    | false =>
      rw [statusPort, settle_of_not_rst .async hr]
      exact statusWord_applyReset c.arch

theorem readyPort_of_rst {p : Pins} (hr : p.rst = true) (c : Clocked) : readyPort p c = false := by
  simp [readyPort, cmdReady, hr]

/-- Settles O2: the edge resets, a reset leaves the engine without a command, and an idle engine holds its state. -/
theorem resetHoldsTheEngine : Obligations.ResetHoldsTheEngine := by
  intro lat style p c hr
  refine ⟨readyPort_of_rst hr c, statusPort_async_of_rst hr c, resetClocked c, tick_reset lat hr c, rfl, rfl, rfl, rfl,
    rfl, rfl, readyPort_of_rst hr _, statusPort_resetClocked style p c, fun q hq => ?_⟩
  exact ⟨(cmdReady_iff _ _).mpr ⟨rfl, hq⟩, statusPort_resetClocked style q c,
    fun noCommand => tick_idle lat hq noCommand _⟩

/-- Two engines with the same host are alike at every port after a reset, whatever their registers held (R182). -/
theorem applyReset_samePorts_of_host {a b : State} (hm : a.hostMoves = b.hostMoves) (hr : a.replies = b.replies) :
    (applyReset a).SamePorts (applyReset b) :=
  ⟨rfl, rfl, rfl, rfl, rfl, hm, hr, by simp, by simp⟩

/-- Settles O3: the edge resets both engines and drops the command in flight. -/
theorem resetAbandonsCommandInFlight : Obligations.ResetAbandonsCommandInFlight :=
  fun lat _ _ _ _ hr hm hp => ⟨_, _, tick_reset lat hr _, tick_reset lat hr _, rfl, rfl,
    applyReset_samePorts_of_host hm.symm hp.symm, rfl, rfl, rfl, rfl, rfl⟩

/-- R181: a command that runs leaves a phase other than IDLE, and one that faults leaves PHASE as it was. -/
theorem phase_idle_of_runCommand {cmd : Command} {s t : State} (run : runCommand cmd s = .next t)
    (idle : t.phase = .idle) : s.phase = .idle := by
  cases runCommand_effect run with
  | init | absorb | finalize => cases idle
  | sequenceFault | illegalFault => exact idle

/-- R181: no step but a reset returns PHASE to IDLE. -/
theorem phase_idle_of_step {s t : State} (hs : step s = .next t) (hm : s.hostMoves.head? ≠ some .reset)
    (idle : t.phase = .idle) : s.phase = .idle := by
  cases step_effect hs with
  | command cmd _ _ _ run => exact phase_idle_of_runCommand (s := popMove s) run idle
  | idle | held | readStatus | readDigest => exact idle
  | reset h => exact absurd h hm

/-- Settles O4: only a reset moves to IDLE or clears ERR and ECAUSE, and its next state has all three at reset. -/
theorem onlyResetClearsErrorsAndPhase : Obligations.OnlyResetClearsErrorsAndPhase := by
  refine ⟨fun s t hs hm => ?_, fun _ hm => ⟨_, step_applyReset hm, rfl, rfl, rfl⟩⟩
  obtain ⟨keepsErr, keepsCause⟩ := step_keeps_err hs hm
  exact ⟨keepsErr, keepsCause, phase_idle_of_step hs hm⟩

end Sys2Proof.Machine
end

section
/-!
PROOFS of the family 70_reset_and_hazards.md: latency (R190, R191, R193).
-/

namespace Sys2Proof.Machine

/-- The latency of a command by OP and PHASE (R190): a command out of sequence or of a reserved opcode takes that of a
fault. -/
theorem latencyOf_eq_ite (lat : Latency) (cmd : Command) (p : Phase) :
    latencyOf lat cmd p =
      if opField cmd = 0x01#8 then lat.init
      else if opField cmd = 0x02#8 ∧ (p = .initialized ∨ p = .absorbing) then lat.absorb
      else if opField cmd = 0x03#8 ∧ (p = .initialized ∨ p = .absorbing) then lat.finalize
      else lat.fault := by
  rcases opcode_cases cmd with op | op | op | ⟨h1, h2, h3⟩
  · simp [latencyOf, decode_init op, op]
  · simp [latencyOf, decode_absorb op, op]
  · simp [latencyOf, decode_finalize op, op]
  · simp [latencyOf, decode_illegal h1 h2 h3, h1, h2, h3]

/-- Two commands with the same opcode take the same number of cycles in the same phase (R191). -/
theorem latencyOf_congr (lat : Latency) {cmd cmd' : Command} {p p' : Phase} (hop : opField cmd = opField cmd')
    (hp : p = p') : latencyOf lat cmd p = latencyOf lat cmd' p' := by
  rw [latencyOf_eq_ite, latencyOf_eq_ite, hop, hp]

/-- Settles O34: before its last edge the command has changed BUSY alone, and that edge gives the state of `runCommand`. -/
theorem clockedCommandRefinesTransaction : Obligations.ClockedCommandRefinesTransaction := by
  rintro lat _ a p waits hl hb hr hv rfl hw
  have noReset : ∀ w ∈ waits, w.rst = false := fun w h => (hw w h).1
  rw [← latencyOf_eq_ite]
  refine ⟨fun early => ⟨_, ticks_command_in_flight hb hr hv noReset early⟩, fun last => ?_⟩
  obtain ⟨t, run⟩ := runCommand_next p.cmd a
  obtain ⟨notBusy, -⟩ := runCommand_frame run
  exact ⟨t, run, notBusy.trans hb, ticks_command_completed hl hb hr hv noReset last run⟩

/-- Settles O36: both commands are in flight for the latency that OP and PHASE give. -/
theorem latencyIndependentOfData : Obligations.LatencyIndependentOfData := by
  intro lat op a b a' b' s s' waits hl hp hb hb' hw
  have noReset : ∀ w ∈ waits, w.rst = false := fun w h => (hw w h).1
  have same : latencyOf lat (packCommand op a b) s.phase = latencyOf lat (packCommand op a' b') s'.phase :=
    latencyOf_congr lat (by rw [opField_packCommand, opField_packCommand]) hp
  refine ⟨fun early => ?_, fun last => ?_⟩
  · exact ⟨_, _, _, _, ticks_command_in_flight hb rfl rfl noReset early,
      ticks_command_in_flight hb' rfl rfl noReset (same ▸ early), rfl, rfl, congrArg (· - waits.length) same⟩
  · obtain ⟨t, run⟩ := runCommand_next (packCommand op a b) s
    obtain ⟨t', run'⟩ := runCommand_next (packCommand op a' b') s'
    obtain ⟨notBusy, -⟩ := runCommand_frame run
    obtain ⟨notBusy', -⟩ := runCommand_frame run'
    exact ⟨t, t', ticks_command_completed hl hb rfl rfl noReset last run,
      ticks_command_completed hl hb' rfl rfl noReset (same ▸ last) run', notBusy.trans hb, notBusy'.trans hb'⟩

end Sys2Proof.Machine
end
